-- ==== Sys2Proof/Word.lean ====
section
/-! DEFINITION. The word types of the core and their plainest arithmetic (spec/00_scope.md R8, R12, R13). -/

namespace Sys2Proof

/-- A byte: a general register, a timer, a memory cell, the field NN (00_scope.md R8). -/
abbrev Byte := BitVec 8

/-- A 16-bit word: PC, I, SP, a return address, an instruction word (00_scope.md R8, 30_encoding.md R90). -/
abbrev Word := BitVec 16

/-- The index of a general register V0 to VF (10_state.md R30). -/
abbrev RegIdx := Fin 16

/-- The index of register VF, the flag register (10_state.md R31). -/
def vF : RegIdx := 15

/-- `a ++ b` of two bytes, the first in bits 15:8 (00_scope.md R13, 20_memory.md R70). -/
def Word.ofBytes (hi lo : Byte) : Word := hi ++ lo

/-- Bits 15:8 of a word, the byte at the lower address (20_memory.md R70). -/
def Word.hi (w : Word) : Byte := w.extractLsb' 8 8

/-- Bits 7:0 of a word, the byte at the higher address (20_memory.md R70). -/
def Word.lo (w : Word) : Byte := w.extractLsb' 0 8

end Sys2Proof
end

