-- ==== Sys2Proof/Syntax.lean ====
section
/-! DEFINITION. The instructions: one constructor per row of spec/opcode_table.json, in the table's order
(spec/30_encoding.md R97). Register fields are indices 0 to 15; NNN and NN are the 12-bit and 8-bit constants; N of
DXYN is a count of rows, so a number, whose bound WellFormed checks. -/

namespace Sys2Proof

inductive Instr where
  /-- 00E0, clear the display (40_control.md R120). -/
  | cls
  /-- 00EE, return from subroutine (40_control.md R121). -/
  | ret
  /-- 1NNN, jump (40_control.md R122). -/
  | jp (nnn : BitVec 12)
  /-- 2NNN, call (40_control.md R123). -/
  | call (nnn : BitVec 12)
  /-- 3XNN, skip if V[X] = NN (41_skip_imm.md R130). -/
  | seImm (x : RegIdx) (nn : Byte)
  /-- 4XNN, skip if V[X] ≠ NN (41_skip_imm.md R131). -/
  | sneImm (x : RegIdx) (nn : Byte)
  /-- 5XY0, skip if V[X] = V[Y] (41_skip_imm.md R132). -/
  | seReg (x y : RegIdx)
  /-- 6XNN, load immediate (41_skip_imm.md R133). -/
  | ldImm (x : RegIdx) (nn : Byte)
  /-- 7XNN, add immediate (41_skip_imm.md R134). -/
  | addImm (x : RegIdx) (nn : Byte)
  /-- 8XY0, copy (42_alu.md R140). -/
  | ldReg (x y : RegIdx)
  /-- 8XY1, bitwise OR (42_alu.md R141). -/
  | orReg (x y : RegIdx)
  /-- 8XY2, bitwise AND (42_alu.md R142). -/
  | andReg (x y : RegIdx)
  /-- 8XY3, bitwise XOR (42_alu.md R143). -/
  | xorReg (x y : RegIdx)
  /-- 8XY4, add with carry to VF (42_alu.md R144). -/
  | addReg (x y : RegIdx)
  /-- 8XY5, V[X] − V[Y] (42_alu.md R145). -/
  | subReg (x y : RegIdx)
  /-- 8XY6, shift right; Y is encoded but not read (42_alu.md R146). -/
  | shr (x y : RegIdx)
  /-- 8XY7, V[Y] − V[X] (42_alu.md R147). -/
  | subnReg (x y : RegIdx)
  /-- 8XYE, shift left; Y is encoded but not read (42_alu.md R148). -/
  | shl (x y : RegIdx)
  /-- 9XY0, skip if V[X] ≠ V[Y] (43_index_jump_rand.md R160). -/
  | sneReg (x y : RegIdx)
  /-- ANNN, load I (43_index_jump_rand.md R161). -/
  | ldI (nnn : BitVec 12)
  /-- BNNN, jump to NNN + V0 (43_index_jump_rand.md R162). -/
  | jpV0 (nnn : BitVec 12)
  /-- CXNN, random byte AND NN (43_index_jump_rand.md R163). -/
  | rnd (x : RegIdx) (nn : Byte)
  /-- DXYN, draw an N-row sprite (44_draw.md R170). -/
  | drw (x y : RegIdx) (n : Nat)
  /-- EX9E, skip if key V[X] is down (45_keypad.md R180). -/
  | skp (x : RegIdx)
  /-- EXA1, skip if key V[X] is up (45_keypad.md R181). -/
  | sknp (x : RegIdx)
  /-- FX07, V[X] <- DT (46_misc_f.md R190). -/
  | ldVxDt (x : RegIdx)
  /-- FX0A, wait for a key into V[X] (46_misc_f.md R191). -/
  | ldVxKey (x : RegIdx)
  /-- FX15, DT <- V[X] (46_misc_f.md R193). -/
  | ldDtVx (x : RegIdx)
  /-- FX18, ST <- V[X] (46_misc_f.md R194). -/
  | ldStVx (x : RegIdx)
  /-- FX1E, I <- I + V[X] (46_misc_f.md R195). -/
  | addIVx (x : RegIdx)
  /-- FX29, I <- V[X] × 5 (46_misc_f.md R196). -/
  | ldFont (x : RegIdx)
  /-- FX33, decimal digits of V[X] to memory (46_misc_f.md R197). -/
  | ldBcd (x : RegIdx)
  /-- FX55, store V0 to V[X] (46_misc_f.md R198). -/
  | storeRegs (x : RegIdx)
  /-- FX65, load V0 to V[X] (46_misc_f.md R199). -/
  | loadRegs (x : RegIdx)
  deriving DecidableEq, Repr

end Sys2Proof
end

