-- ==== Sys2Proof/Decode.lean ====
section
/-! DEFINITION. Decoding and encoding of the one 16-bit format (spec/30_encoding.md R90 to R100). Decoding follows the
exact patterns of the opcode map (R97, R98): dispatch on the high nibble, then on the sub-field of R96; every other
word is an invalid opcode (R99). -/

namespace Sys2Proof

/-! ### Fields (R91) -/

/-- The high nibble w[15:12], which selects the execution unit (30_encoding.md R91, R96). -/
def opField (w : Word) : BitVec 4 := w.extractLsb' 12 4

/-- The register index X = w[11:8] (30_encoding.md R91). -/
def xField (w : Word) : RegIdx := (w.extractLsb' 8 4).toFin

/-- The register index Y = w[7:4] (30_encoding.md R91). -/
def yField (w : Word) : RegIdx := (w.extractLsb' 4 4).toFin

/-- The 4-bit constant or sub-selector N = w[3:0] (30_encoding.md R91). -/
def nField (w : Word) : BitVec 4 := w.extractLsb' 0 4

/-- The 8-bit constant or sub-selector NN = w[7:0] (30_encoding.md R91). -/
def nnField (w : Word) : Byte := w.extractLsb' 0 8

/-- The 12-bit constant NNN = w[11:0] (30_encoding.md R91). -/
def nnnField (w : Word) : BitVec 12 := w.extractLsb' 0 12

/-! ### Decoding -/

/-- Why bytes are no instruction, by name. -/
inductive DecodeError where
  /-- The word matches no row of the opcode map (30_encoding.md R99). -/
  | invalidOpcode (w : Word)
  /-- Fewer than two bytes: no whole word (30_encoding.md R90). -/
  | truncated
  deriving DecidableEq, Repr

/-- Unit 0x0: the whole word selects (30_encoding.md R96, R98). -/
def decodeUnit0 (w : Word) : Except DecodeError Instr :=
  if w = 0x00E0#16 then .ok .cls
  else if w = 0x00EE#16 then .ok .ret
  else .error (.invalidOpcode w)

/-- Unit 0x8: N selects (30_encoding.md R96). -/
def decodeUnit8 (w : Word) : Except DecodeError Instr :=
  match nField w with
  | 0x0#4 => .ok (.ldReg (xField w) (yField w))
  | 0x1#4 => .ok (.orReg (xField w) (yField w))
  | 0x2#4 => .ok (.andReg (xField w) (yField w))
  | 0x3#4 => .ok (.xorReg (xField w) (yField w))
  | 0x4#4 => .ok (.addReg (xField w) (yField w))
  | 0x5#4 => .ok (.subReg (xField w) (yField w))
  | 0x6#4 => .ok (.shr (xField w) (yField w))
  | 0x7#4 => .ok (.subnReg (xField w) (yField w))
  | 0xE#4 => .ok (.shl (xField w) (yField w))
  | _ => .error (.invalidOpcode w)

/-- Unit 0xE: NN selects (30_encoding.md R96). -/
def decodeUnitE (w : Word) : Except DecodeError Instr :=
  match nnField w with
  | 0x9E#8 => .ok (.skp (xField w))
  | 0xA1#8 => .ok (.sknp (xField w))
  | _ => .error (.invalidOpcode w)

/-- Unit 0xF: NN selects (30_encoding.md R96). -/
def decodeUnitF (w : Word) : Except DecodeError Instr :=
  match nnField w with
  | 0x07#8 => .ok (.ldVxDt (xField w))
  | 0x0A#8 => .ok (.ldVxKey (xField w))
  | 0x15#8 => .ok (.ldDtVx (xField w))
  | 0x18#8 => .ok (.ldStVx (xField w))
  | 0x1E#8 => .ok (.addIVx (xField w))
  | 0x29#8 => .ok (.ldFont (xField w))
  | 0x33#8 => .ok (.ldBcd (xField w))
  | 0x55#8 => .ok (.storeRegs (xField w))
  | 0x65#8 => .ok (.loadRegs (xField w))
  | _ => .error (.invalidOpcode w)

/-- The instruction of a word: dispatch on the high nibble (30_encoding.md R96 to R98); units 0x5 and 0x9 require
N = 0. Every word with no row is rejected by name (R99). -/
def decodeWord (w : Word) : Except DecodeError Instr :=
  match opField w with
  | 0x0#4 => decodeUnit0 w
  | 0x1#4 => .ok (.jp (nnnField w))
  | 0x2#4 => .ok (.call (nnnField w))
  | 0x3#4 => .ok (.seImm (xField w) (nnField w))
  | 0x4#4 => .ok (.sneImm (xField w) (nnField w))
  | 0x5#4 => if nField w = 0 then .ok (.seReg (xField w) (yField w)) else .error (.invalidOpcode w)
  | 0x6#4 => .ok (.ldImm (xField w) (nnField w))
  | 0x7#4 => .ok (.addImm (xField w) (nnField w))
  | 0x8#4 => decodeUnit8 w
  | 0x9#4 => if nField w = 0 then .ok (.sneReg (xField w) (yField w)) else .error (.invalidOpcode w)
  | 0xA#4 => .ok (.ldI (nnnField w))
  | 0xB#4 => .ok (.jpV0 (nnnField w))
  | 0xC#4 => .ok (.rnd (xField w) (nnField w))
  | 0xD#4 => .ok (.drw (xField w) (yField w) (nField w).toNat)
  | 0xE#4 => decodeUnitE w
  | 0xF#4 => decodeUnitF w
  | _ => .error (.invalidOpcode w)

/-- The instruction at the head of a byte stream, big-endian, and the bytes after it (20_memory.md R70). Total on any
bytes. -/
def decodeBytes : List Byte → Except DecodeError (Instr × List Byte)
  | hi :: lo :: rest =>
    match decodeWord (Word.ofBytes hi lo) with
    | .ok i => .ok (i, rest)
    | .error e => .error e
  | _ => .error .truncated

/-- The instruction the decoder reads from an opcode-table word: its 16 bits laid out as memory holds them, the byte
with bits 15:8 first (30_encoding.md R90, 20_memory.md R70). Bits at and above `nbits` are 0. -/
def decodeTableWord (nbits w : Nat) : Option Instr :=
  let word : Word := BitVec.ofNat 16 (w % 2 ^ nbits)
  match decodeBytes [word.hi, word.lo] with
  | .ok (i, _) => some i
  | .error _ => none

/-! ### Encoding -/

/-- A register index as its 4-bit field (30_encoding.md R91). -/
def regField (r : RegIdx) : BitVec 4 := BitVec.ofFin r

/-- `op NNN` (30_encoding.md R92). -/
def packNNN (op : BitVec 4) (nnn : BitVec 12) : Word := op ++ nnn

/-- `op X NN` (30_encoding.md R92). -/
def packXNN (op : BitVec 4) (x : RegIdx) (nn : Byte) : Word := op ++ (regField x ++ nn)

/-- `op X Y N` (30_encoding.md R92). -/
def packXYN (op : BitVec 4) (x y : RegIdx) (n : BitVec 4) : Word := op ++ (regField x ++ (regField y ++ n))

/-- The word of an instruction, row by row of the opcode map (30_encoding.md R97). -/
def encode : Instr → Word
  | .cls => 0x00E0#16
  | .ret => 0x00EE#16
  | .jp nnn => packNNN 0x1 nnn
  | .call nnn => packNNN 0x2 nnn
  | .seImm x nn => packXNN 0x3 x nn
  | .sneImm x nn => packXNN 0x4 x nn
  | .seReg x y => packXYN 0x5 x y 0x0
  | .ldImm x nn => packXNN 0x6 x nn
  | .addImm x nn => packXNN 0x7 x nn
  | .ldReg x y => packXYN 0x8 x y 0x0
  | .orReg x y => packXYN 0x8 x y 0x1
  | .andReg x y => packXYN 0x8 x y 0x2
  | .xorReg x y => packXYN 0x8 x y 0x3
  | .addReg x y => packXYN 0x8 x y 0x4
  | .subReg x y => packXYN 0x8 x y 0x5
  | .shr x y => packXYN 0x8 x y 0x6
  | .subnReg x y => packXYN 0x8 x y 0x7
  | .shl x y => packXYN 0x8 x y 0xE
  | .sneReg x y => packXYN 0x9 x y 0x0
  | .ldI nnn => packNNN 0xA nnn
  | .jpV0 nnn => packNNN 0xB nnn
  | .rnd x nn => packXNN 0xC x nn
  | .drw x y n => packXYN 0xD x y (BitVec.ofNat 4 n)
  | .skp x => packXNN 0xE x 0x9E
  | .sknp x => packXNN 0xE x 0xA1
  | .ldVxDt x => packXNN 0xF x 0x07
  | .ldVxKey x => packXNN 0xF x 0x0A
  | .ldDtVx x => packXNN 0xF x 0x15
  | .ldStVx x => packXNN 0xF x 0x18
  | .addIVx x => packXNN 0xF x 0x1E
  | .ldFont x => packXNN 0xF x 0x29
  | .ldBcd x => packXNN 0xF x 0x33
  | .storeRegs x => packXNN 0xF x 0x55
  | .loadRegs x => packXNN 0xF x 0x65

/-- The two bytes of an instruction as memory holds them (20_memory.md R70). -/
def encodeBytes (i : Instr) : List Byte := [(encode i).hi, (encode i).lo]

/-! ### The opcode map as masks (R97) -/

/-- A row of the opcode map: a word matches it when `w AND mask = pattern` (30_encoding.md R97). -/
structure OpRow where
  mnemonic : String
  pattern : Word
  mask : Word
  deriving DecidableEq, Repr

/-- A word matches a row (30_encoding.md R97). -/
def OpRow.covers (r : OpRow) (w : Word) : Bool := (w &&& r.mask) == r.pattern

/-- The row of an instruction: its pattern and mask as the opcode map lists them (30_encoding.md R97). -/
def rowOf : Instr → OpRow
  | .cls => ⟨"00E0", 0x00E0, 0xFFFF⟩
  | .ret => ⟨"00EE", 0x00EE, 0xFFFF⟩
  | .jp _ => ⟨"1NNN", 0x1000, 0xF000⟩
  | .call _ => ⟨"2NNN", 0x2000, 0xF000⟩
  | .seImm _ _ => ⟨"3XNN", 0x3000, 0xF000⟩
  | .sneImm _ _ => ⟨"4XNN", 0x4000, 0xF000⟩
  | .seReg _ _ => ⟨"5XY0", 0x5000, 0xF00F⟩
  | .ldImm _ _ => ⟨"6XNN", 0x6000, 0xF000⟩
  | .addImm _ _ => ⟨"7XNN", 0x7000, 0xF000⟩
  | .ldReg _ _ => ⟨"8XY0", 0x8000, 0xF00F⟩
  | .orReg _ _ => ⟨"8XY1", 0x8001, 0xF00F⟩
  | .andReg _ _ => ⟨"8XY2", 0x8002, 0xF00F⟩
  | .xorReg _ _ => ⟨"8XY3", 0x8003, 0xF00F⟩
  | .addReg _ _ => ⟨"8XY4", 0x8004, 0xF00F⟩
  | .subReg _ _ => ⟨"8XY5", 0x8005, 0xF00F⟩
  | .shr _ _ => ⟨"8XY6", 0x8006, 0xF00F⟩
  | .subnReg _ _ => ⟨"8XY7", 0x8007, 0xF00F⟩
  | .shl _ _ => ⟨"8XYE", 0x800E, 0xF00F⟩
  | .sneReg _ _ => ⟨"9XY0", 0x9000, 0xF00F⟩
  | .ldI _ => ⟨"ANNN", 0xA000, 0xF000⟩
  | .jpV0 _ => ⟨"BNNN", 0xB000, 0xF000⟩
  | .rnd _ _ => ⟨"CXNN", 0xC000, 0xF000⟩
  | .drw _ _ _ => ⟨"DXYN", 0xD000, 0xF000⟩
  | .skp _ => ⟨"EX9E", 0xE09E, 0xF0FF⟩
  | .sknp _ => ⟨"EXA1", 0xE0A1, 0xF0FF⟩
  | .ldVxDt _ => ⟨"FX07", 0xF007, 0xF0FF⟩
  | .ldVxKey _ => ⟨"FX0A", 0xF00A, 0xF0FF⟩
  | .ldDtVx _ => ⟨"FX15", 0xF015, 0xF0FF⟩
  | .ldStVx _ => ⟨"FX18", 0xF018, 0xF0FF⟩
  | .addIVx _ => ⟨"FX1E", 0xF01E, 0xF0FF⟩
  | .ldFont _ => ⟨"FX29", 0xF029, 0xF0FF⟩
  | .ldBcd _ => ⟨"FX33", 0xF033, 0xF0FF⟩
  | .storeRegs _ => ⟨"FX55", 0xF055, 0xF0FF⟩
  | .loadRegs _ => ⟨"FX65", 0xF065, 0xF0FF⟩

/-- One instruction of every row, in the map's order. -/
def oneOfEachRow : List Instr :=
  [.cls, .ret, .jp 0, .call 0, .seImm 0 0, .sneImm 0 0, .seReg 0 0, .ldImm 0 0, .addImm 0 0,
   .ldReg 0 0, .orReg 0 0, .andReg 0 0, .xorReg 0 0, .addReg 0 0, .subReg 0 0, .shr 0 0, .subnReg 0 0, .shl 0 0,
   .sneReg 0 0, .ldI 0, .jpV0 0, .rnd 0 0, .drw 0 0 0, .skp 0, .sknp 0,
   .ldVxDt 0, .ldVxKey 0, .ldDtVx 0, .ldStVx 0, .addIVx 0, .ldFont 0, .ldBcd 0, .storeRegs 0, .loadRegs 0]

/-- The opcode map: its 34 rows (30_encoding.md R97). -/
def opcodeMap : List OpRow := oneOfEachRow.map rowOf

end Sys2Proof
end

