-- ==== Sys2Proof/Config.lean ====
section
/-! DEFINITION. What is fixed for the machine: the parameters of spec/00_scope.md R8 and R9, and the values the
spec leaves free. The opaque constants have no body: nothing can be proved of the values they take. -/

namespace Sys2Proof.Config

/-- MEM_SIZE: bytes of memory, addresses 0x000 to 0xFFF (00_scope.md R8). -/
def memSize : Nat := 4096

/-- PROG_BASE: where a ROM is loaded and where PC starts (00_scope.md R8). -/
def progBase : Nat := 0x200

/-- ROM_MAX: the largest loadable ROM in bytes, 4096 − 0x200 (00_scope.md R8). -/
def romMax : Nat := 3584

/-- FONT_END: the first address after the font, which starts at 0x000 (00_scope.md R8). -/
def fontEnd : Nat := 0x050

/-- FONT_GLYPH_BYTES: rows per glyph (00_scope.md R8). -/
def glyphBytes : Nat := 5

/-- DISP_W: display width in pixels (00_scope.md R8). -/
def dispW : Nat := 64

/-- DISP_H: display height in pixels (00_scope.md R8). -/
def dispH : Nat := 32

/-- By how much STACK_DEPTH exceeds 12. Uninterpreted: the spec leaves the capacity OPEN (00_scope.md R9, D3).
DEDUCED (log 3): at most 65535 − 12, since SP, a 16-bit register, counts up to STACK_DEPTH (10_state.md R40). -/
opaque stackSlack : Fin 65524

/-- STACK_DEPTH of the machine after reset: at least 12, otherwise unknown (00_scope.md R9; log 3). -/
def stackDepth : Nat := stackSlack.val + 12

/-- The conventional font, the default of the parameter FONT: sixteen glyphs of five rows (10_state.md R52).
PRESUMED (log 2): the spec marks the bytes as general knowledge. -/
def defaultGlyphs : List (List Byte) :=
  [[0xF0, 0x90, 0x90, 0x90, 0xF0],
   [0x20, 0x60, 0x20, 0x20, 0x70],
   [0xF0, 0x10, 0xF0, 0x80, 0xF0],
   [0xF0, 0x10, 0xF0, 0x10, 0xF0]] ++
  [[0x90, 0x90, 0xF0, 0x10, 0x10],
   [0xF0, 0x80, 0xF0, 0x10, 0xF0],
   [0xF0, 0x80, 0xF0, 0x90, 0xF0],
   [0xF0, 0x10, 0x20, 0x40, 0x40]] ++
  [[0xF0, 0x90, 0xF0, 0x90, 0xF0],
   [0xF0, 0x90, 0xF0, 0x10, 0xF0],
   [0xF0, 0x90, 0xF0, 0x90, 0x90],
   [0xE0, 0x90, 0xE0, 0x90, 0xE0]] ++
  [[0xF0, 0x80, 0x80, 0x80, 0xF0],
   [0xE0, 0x90, 0x90, 0x90, 0xE0],
   [0xF0, 0x80, 0xF0, 0x80, 0xF0],
   [0xF0, 0x80, 0xF0, 0x80, 0x80]]

/-- FONT's default as the 80 bytes at 0x000 to 0x04F (10_state.md R52; log 2). -/
def defaultFont : List Byte := defaultGlyphs.flatten

/-- The byte the random source supplies at the n-th free draw (60_exceptions.md R235, D18; log 8). -/
opaque randomByte : Nat → Byte

/-- The key test of an index of 16 or more at the n-th free draw (45_keypad.md R182, D17; log 9). -/
opaque keyTest : Nat → Bool

/-- Which of several keys down a wait captures at the n-th free draw, as a number that is reduced modulo how many
are down (60_exceptions.md R226, D15; log 10). -/
opaque keyChoice : Nat → Nat

end Sys2Proof.Config
end

