-- ==== Sys2Proof/Machine/State.lean ====
section
/-! DEFINITION. The state of the machine as plain data: everything spec/10_state.md gives the core, the inputs,
outputs and parameters it gives beside it, and the reset values (spec/10_state.md R55, spec/70_reset_and_hazards.md
R250). -/

namespace Sys2Proof.Machine

/-- `exec_state` (10_state.md R49). -/
inductive ExecState where
  | running
  | paused
  | awaitingKey
  | halted
  deriving DecidableEq, Repr

/-- `resume_state`: the state Paused returns to (10_state.md R51). -/
inductive ResumeState where
  | running
  | awaitingKey
  deriving DecidableEq, Repr

/-- `halt_cause` (10_state.md R51, 60_exceptions.md R211). -/
inductive HaltCause where
  | none
  | stackOverflow
  | stackUnderflow
  | outOfRange
  deriving DecidableEq, Repr

/-- The result of the last INIT (70_reset_and_hazards.md R250, R251). A machine exists exactly while it is `ok`: a failed
INIT leaves none, and discards the one before it. -/
inductive InitResult where
  /-- `Ok`: the machine exists. -/
  | ok
  /-- `LoadError(len)`: no machine exists until an INIT succeeds (70_reset_and_hazards.md R251; log 19). -/
  | loadError (len : Nat)
  deriving DecidableEq, Repr

/-- An event the core emits to the host (60_exceptions.md R212). -/
inductive Report where
  /-- `HaltReport(cause, a, detail)` of a fatal error (60_exceptions.md R212, R213). -/
  | halt (cause : HaltCause) (a : Word) (detail : Nat)
  /-- `Diag(InvalidOpcode, w, a)` (60_exceptions.md R212, R215). -/
  | invalidOpcode (w a : Word)
  deriving DecidableEq, Repr

/-- The 16 key levels, true = down (60_exceptions.md R232). -/
abbrev Keypad := Vector Bool 16

/-- What the host gives the core, each one atomic transition (60_exceptions.md R240, R241). -/
inductive Command where
  /-- INIT(rom) (70_reset_and_hazards.md R250). -/
  | init (rom : List Byte)
  /-- STEP (60_exceptions.md R225). -/
  | step
  /-- TICK (60_exceptions.md R229). -/
  | tick
  /-- PAUSE_TOGGLE (60_exceptions.md R227). -/
  | pauseToggle
  /-- QUIT (60_exceptions.md R228). -/
  | quit
  /-- No command of the core: the input collaborator changes the key levels between two commands (60_exceptions.md
  R232, R240; log 7). -/
  | keys (levels : Keypad)
  deriving DecidableEq, Repr

/-- The parameters the spec says a model takes as arguments (00_scope.md R9). No step changes them. -/
structure Params where
  /-- STACK_DEPTH (00_scope.md R9, D3). -/
  stackDepth : Nat
  /-- FONT: the bytes at 0x000 to 0x04F after INIT (00_scope.md R9, 10_state.md R52, D5). -/
  font : List Byte
  deriving DecidableEq, Repr

/-- Memory: the bytes that differ from what an unlisted address reads as, addresses strictly rising (`Memory.wf` in
Machine/Ops.lean; 10_state.md R46, log 1). -/
abbrev Memory := List Host.Cell

/-- The display buffer `disp[x][y]`, x in 0..63 outside, y in 0..31 inside (10_state.md R47). -/
abbrev Display := Vector (Vector Bool 32) 64

structure State where
  /-- V0 to VF (10_state.md R30). -/
  regs : Vector Byte 16
  /-- PC (10_state.md R35). -/
  pc : Word
  /-- I (10_state.md R38). -/
  idx : Word
  /-- SP, the number of entries on the call stack (10_state.md R40). -/
  sp : Word
  /-- stack[0..STACK_DEPTH−1] (10_state.md R39). -/
  stack : List Word
  /-- DT (10_state.md R43). -/
  dt : Byte
  /-- ST (10_state.md R44). -/
  st : Byte
  /-- mem[0..4095] (10_state.md R46). -/
  mem : Memory
  /-- disp[x][y] (10_state.md R47). -/
  disp : Display
  /-- exec_state (10_state.md R49). -/
  execState : ExecState
  /-- resume_state (10_state.md R51). -/
  resumeState : ResumeState
  /-- kw_x, the X of the FX0A that waits (10_state.md R50). -/
  kwX : RegIdx
  /-- kw_prev_any, whether a key was down at the previous sample of the wait (10_state.md R50). -/
  kwPrevAny : Bool
  /-- halt_cause (10_state.md R51). -/
  haltCause : HaltCause
  /-- Output: the result of the last INIT, and whether a machine exists (70_reset_and_hazards.md R250, R251; log 19). -/
  initResult : InitResult
  /-- Input: the key levels (10_state.md R48, 60_exceptions.md R232; log 7). -/
  keys : Keypad
  /-- Output: the events emitted so far, newest first (60_exceptions.md R212; log 20). -/
  reports : List Report
  /-- STACK_DEPTH and FONT (00_scope.md R9; log 4). -/
  params : Params
  /-- The model's own: the host's commands not yet given, first first; when empty the host issues STEP (log 6). -/
  commands : List Command
  /-- The model's own: how many free values have been drawn; the opaque constants of Config are applied to it
  (log 11). -/
  draws : Nat
  deriving DecidableEq, Repr

/-- Why the machine stops for good. -/
inductive Fault where
  /-- STEP, TICK or PAUSE_TOGGLE after a LoadError: they "have no meaning until an INIT succeeds"
  (70_reset_and_hazards.md R251). Raised by these three commands alone, by no instruction. Safe: the run ends where the
  host breaks its duty of 60_exceptions.md R240 and the spec gives the command no effect (log 19). -/
  | noMachine
  deriving DecidableEq, Repr

/-- Why a step has no meaning. -/
inductive Refusal where
  /-- The instruction is not modelled yet. Raised by no arm of exec: every instruction has its meaning. Safe. -/
  | notModelled (mnemonic : String)
  deriving DecidableEq, Repr

/-- The machine after INIT with an empty ROM, for given parameters (10_state.md R55, 70_reset_and_hazards.md R250,
R252). Memory lists nothing: it reads as FONT below 0x050 and as zero above (log 1). I, the stack entries, the display
and the execution state are the spec's decision D19 (log 5). The inputs, reports, commands and draws are the model's
choice (log 6, log 7, log 11, log 20). -/
def State.resetWith (p : Params) : State where
  regs := Vector.replicate 16 0
  pc := 0x200
  idx := 0
  sp := 0
  stack := List.replicate p.stackDepth 0
  dt := 0
  st := 0
  mem := []
  disp := Vector.replicate 64 (Vector.replicate 32 false)
  execState := .running
  resumeState := .running
  kwX := 0
  kwPrevAny := false
  haltCause := .none
  initResult := .ok
  keys := Vector.replicate 16 false
  reports := []
  params := p
  commands := []
  draws := 0

/-- The machine right after reset: STACK_DEPTH uninterpreted but at least 12 (log 3), FONT the default of 10_state.md
R52 (log 2), no ROM bytes. -/
def State.reset : State :=
  State.resetWith { stackDepth := Config.stackDepth, font := Config.defaultFont }

end Sys2Proof.Machine
end

