-- ==== Sys2Proof/Machine/Ops.lean ====
section
/-! DEFINITION. The named operations every meaning is written over: registers, memory, the stack, PC, the display, the
free draws, and taking a fatal error (the core's one kind of exception). -/

namespace Sys2Proof.Machine

abbrev Result := Host.Outcome State Fault Refusal

/-! ### Codes (10_state.md R49, R51, 60_exceptions.md R211; log 27) -/

/-- The 2-bit encoding of `exec_state` (10_state.md R49). -/
def ExecState.code : ExecState → BitVec 2
  | .running => 0
  | .paused => 1
  | .awaitingKey => 2
  | .halted => 3

/-- The 2-bit encoding of `halt_cause` (10_state.md R51). -/
def HaltCause.code : HaltCause → BitVec 2
  | .none => 0
  | .stackOverflow => 1
  | .stackUnderflow => 2
  | .outOfRange => 3

/-- The error code an event carries: a halt's cause, or InvalidOpcode = 4 (60_exceptions.md R211). -/
def Report.code : Report → Nat
  | .halt c _ _ => c.code.toNat
  | .invalidOpcode _ _ => 4

/-- The code of INIT's result: none 0, LoadError 5 (60_exceptions.md R211). -/
def InitResult.code : InitResult → Nat
  | .ok => 0
  | .loadError _ => 5

/-- The execution state that a remembered `resume_state` stands for (60_exceptions.md R227). -/
def ResumeState.toExec : ResumeState → ExecState
  | .running => .running
  | .awaitingKey => .awaitingKey

/-! ### General registers (10_state.md R30) -/

/-- `V[i]` (10_state.md R30). -/
def State.reg (s : State) (i : RegIdx) : Byte := s.regs[i]

/-- `V[i] <- v` (10_state.md R30): one bank, no hardwired register. -/
def State.setReg (s : State) (i : RegIdx) (v : Byte) : State := { s with regs := s.regs.set i v }

/-! ### The other registers -/

/-- `PC <- v` (10_state.md R35). -/
def State.setPc (s : State) (v : Word) : State := { s with pc := v }

/-- `I <- v` (10_state.md R38). -/
def State.setIdx (s : State) (v : Word) : State := { s with idx := v }

/-- `DT <- v` (10_state.md R43). -/
def State.setDt (s : State) (v : Byte) : State := { s with dt := v }

/-- `ST <- v` (10_state.md R44). -/
def State.setSt (s : State) (v : Byte) : State := { s with st := v }

/-- `PC <- PC + 2`, computed modulo 2^16 (10_state.md R37; log 17): the fetch advance and the skip. -/
def State.advance (s : State) : State := s.setPc (s.pc + 2)

/-- The address `a` of the instruction being executed: PC already holds a + 2 (10_state.md R35, 30_encoding.md R95). -/
def State.instrAddr (s : State) : Word := s.pc - 2

/-! ### Memory (20_memory.md) -/

/-- What an address that memory does not list reads as: its value after INIT with an empty ROM, FONT at 0x000 to 0x04F
and zero elsewhere (10_state.md R55, 70_reset_and_hazards.md R250; log 1). -/
def Memory.background (font : List Byte) (a : Nat) : Byte :=
  if a < Config.fontEnd then font.getD a 0 else 0

/-- The byte at an address (20_memory.md R66, R73). -/
def Memory.read (font : List Byte) : Memory → Nat → Byte
  | [], a => Memory.background font a
  | (c, b) :: m, a => if c = a then b else Memory.read font m a

/-- Memory with the byte at an address replaced, in canonical form (20_memory.md R68): the address keeps its place in
the rising order, and is not listed when the byte is what an unlisted address reads as. -/
def Memory.write (font : List Byte) : Memory → Nat → Byte → Memory
  | [], a, b => if b = Memory.background font a then [] else [(a, b)]
  | (c, d) :: m, a, b =>
    if a < c then (if b = Memory.background font a then (c, d) :: m else (a, b) :: (c, d) :: m)
    else if a = c then (if b = Memory.background font a then m else (a, b) :: m)
    else (c, d) :: Memory.write font m a b

/-- Consecutive single-byte writes from an address up (20_memory.md R63, R68). -/
def Memory.writeBytes (font : List Byte) : Memory → Nat → List Byte → Memory
  | m, _, [] => m
  | m, a, b :: bs => Memory.writeBytes font (Memory.write font m a b) (a + 1) bs

/-- Every listed address is at least `lo`, exists, rises strictly, and holds a byte other than the background. -/
def Memory.wfFrom (font : List Byte) : Nat → Memory → Bool
  | _, [] => true
  | lo, (c, b) :: m =>
    decide (lo ≤ c) && decide (c < Config.memSize) && !(b == Memory.background font c) && Memory.wfFrom font (c + 1) m

/-- The canonical form of memory: addresses strictly rising and below 4096, no entry equal to the background. -/
def Memory.wf (font : List Byte) (m : Memory) : Bool := Memory.wfFrom font 0 m

/-- `mem[a]` (20_memory.md R60). -/
def State.readByte (s : State) (a : Nat) : Byte := Memory.read s.params.font s.mem a

/-- `MemWrite` of consecutive bytes after their range was checked (20_memory.md R68). -/
def State.writeBytes (s : State) (a : Nat) (bs : List Byte) : State :=
  { s with mem := Memory.writeBytes s.params.font s.mem a bs }

/-- `MemRead(addr, 1)` of n consecutive bytes after their range was checked (20_memory.md R66, R69). -/
def State.readBytes (s : State) : Nat → Nat → List Byte
  | _, 0 => []
  | a, n + 1 => s.readByte a :: s.readBytes (a + 1) n

/-- `CheckRange(addr, n)`: the lowest address out of range, if any (20_memory.md R67). Addresses are exact naturals,
never wrapped (R65). -/
def checkRange : Nat → Nat → Option Nat
  | _, 0 => none
  | a, n + 1 => if Config.memSize ≤ a then some a else checkRange (a + 1) n

/-! ### Taking a fatal error

The core has no trap and no handler (60_exceptions.md R218, R219): a fatal error halts it. No instruction returns from
one (R220); the way out of Halted is INIT (70_reset_and_hazards.md R254, `State.init` in Machine/Commands.lean). -/

/-- `raise E` by the instruction at `a`: the halt of 60_exceptions.md R213. Nothing else changes; PC is what it is when
the error is raised, `a` during the fetch and `a + 2` during execution. -/
def State.halt (s : State) (e : HaltCause) (a : Word) (detail : Nat) : State :=
  { s with execState := .halted, haltCause := e, reports := .halt e a detail :: s.reports }

/-- `raise OutOfRangeAccess(bad)` by the executing instruction (20_memory.md R67, 60_exceptions.md R213). -/
def State.raiseOutOfRange (s : State) (bad : Nat) : State := s.halt .outOfRange s.instrAddr bad

/-- Run `k` when all of the n bytes from `addr` exist, and raise OutOfRangeAccess before any write when not
(00_scope.md R16, 20_memory.md R67 to R69). -/
def State.withRange (s : State) (addr n : Nat) (k : State) : State :=
  match checkRange addr n with
  | none => k
  | some bad => s.raiseOutOfRange bad

/-- `report InvalidOpcode(w, a)` (60_exceptions.md R215). -/
def State.reportInvalid (s : State) (w a : Word) : State :=
  { s with reports := .invalidOpcode w a :: s.reports }

/-! ### The call stack (10_state.md R39 to R42) -/

/-- `Push(v)` then `k`: StackOverflow when SP is not below STACK_DEPTH, that is (SP ≤ STACK_DEPTH, 10_state.md R40)
when SP = STACK_DEPTH (R41; log 18). The detail of the report is 0 (60_exceptions.md R212). -/
def State.push (s : State) (v : Word) : Except State State :=
  if s.sp.toNat < s.params.stackDepth then .ok { s with stack := s.stack.set s.sp.toNat v, sp := s.sp + 1 }
  else .error (s.halt .stackOverflow s.instrAddr 0)

/-- `Pop()`: StackUnderflow when SP = 0, else the top entry; the entry keeps its value (10_state.md R42). -/
def State.pop (s : State) : Except State (Word × State) :=
  if s.sp = 0 then .error (s.halt .stackUnderflow s.instrAddr 0)
  else .ok (s.stack.getD (s.sp.toNat - 1) 0, { s with sp := s.sp - 1 })

/-! ### Free draws -/

/-- One free value has been drawn (log 11). -/
def State.drawn (s : State) : State := { s with draws := s.draws + 1 }

/-- `draw_rnd()`: the byte the random source supplies now (60_exceptions.md R235; log 8). -/
def State.randomByte (s : State) : Byte := Config.randomByte s.draws

/-! ### The display (10_state.md R47) -/

/-- `disp[x][y]` (10_state.md R47). -/
def Display.pixel (d : Display) (x : Fin 64) (y : Fin 32) : Bool := (d[x])[y]

/-- `disp[x][y] <- not disp[x][y]` (44_draw.md R170). -/
def Display.flip (d : Display) (x : Fin 64) (y : Fin 32) : Display := d.set x ((d[x]).set y (!(d[x])[y]))

/-- A display with every pixel off (40_control.md R120). -/
def Display.blank : Display := Vector.replicate 64 (Vector.replicate 32 false)

/-- `disp[x][y]` of a state: what the host reads (60_exceptions.md R234). -/
def State.pixel (s : State) (x : Fin 64) (y : Fin 32) : Bool := Display.pixel s.disp x y

/-! ### The keypad (60_exceptions.md R232) -/

/-- `key[k]` (60_exceptions.md R232). -/
def State.key (s : State) (k : Fin 16) : Bool := s.keys[k]

/-- The key indices, lowest first. -/
def keyIndices : List (Fin 16) := [0, 1, 2, 3, 4, 5, 6, 7, 8, 9, 10, 11, 12, 13, 14, 15]

/-- The keys that are down, lowest first. -/
def State.keysDown (s : State) : List (Fin 16) := keyIndices.filter s.key

/-- `key[0] or key[1] or ... or key[15]` (46_misc_f.md R191, 60_exceptions.md R226). -/
def State.anyKey (s : State) : Bool := keyIndices.any s.key

/-- Any one of the given keys: the only one, or a free choice among several (60_exceptions.md R226, D15; log 10). -/
def pickKey (choice : Nat) : List (Fin 16) → Fin 16
  | [] => 0
  | [k] => k
  | k :: l :: ks => (k :: l :: ks).getD (choice % (ks.length + 2)) k

/-- `KeyDown(k)`: the level of key k, or for k ≥ 16 a free Boolean (45_keypad.md R182, D17; log 9). -/
def State.keyDown (s : State) (k : Byte) : Bool :=
  if h : k.toNat < 16 then s.key ⟨k.toNat, h⟩ else Config.keyTest s.draws

/-- The state after `KeyDown(k)`: a free draw is used up when k ≥ 16 (45_keypad.md R182). -/
def State.afterKeyTest (s : State) (k : Byte) : State := if k.toNat < 16 then s else s.drawn

/-! ### Outputs (60_exceptions.md R236) -/

/-- SOUND_ON: true exactly while ST ≠ 0 (60_exceptions.md R236). -/
def State.soundOn (s : State) : Bool := !(s.st == 0)

end Sys2Proof.Machine
end

