-- ==== Sys2Proof/Machine/Flags.lean ====
section
/-! DEFINITION. The values that instructions write to VF as a flag (spec/10_state.md R31, spec/42_alu.md,
spec/44_draw.md). -/

namespace Sys2Proof.Machine

/-- A flag as the byte VF holds: 1 or 0. -/
def flagByte (b : Bool) : Byte := if b then 1 else 0

/-- Carry of 8XY4: the exact sum is over 255 (42_alu.md R144). -/
def carryFlag (a b : Byte) : Byte := flagByte (decide (255 < a.toNat + b.toNat))

/-- No-borrow of `a − b`: 1 when b ≤ a, equality included (42_alu.md R145, R147). -/
def noBorrowFlag (a b : Byte) : Byte := flagByte (decide (b.toNat ≤ a.toNat))

/-- The bit a right shift drops, bit 0 (42_alu.md R146). -/
def shiftRightFlag (a : Byte) : Byte := a &&& 0x01

/-- The bit a left shift drops, bit 7 (42_alu.md R148). -/
def shiftLeftFlag (a : Byte) : Byte := a >>> 7

/-- Collision of DXYN: some displayed pixel went from on to off (44_draw.md R170). -/
def collisionFlag (hit : Bool) : Byte := flagByte hit

end Sys2Proof.Machine
end

