-- ==== Sys2Proof/Machine/Operands.lean ====
section
/-! DEFINITION. The operand forms of the instructions: immediates, register lists, the index address, the sprite's
origin and rows, decimal digits (spec/30_encoding.md R93, R94). -/

namespace Sys2Proof.Machine

/-- `zext_16(NNN)` (30_encoding.md R93). -/
def zext16 (nnn : BitVec 12) : Word := nnn.setWidth 16

/-- A register byte where it meets a 16-bit register (00_scope.md R13). -/
def byteToWord (b : Byte) : Word := b.setWidth 16

/-- The address an access through I starts at, an exact natural (20_memory.md R65). -/
def State.indexAddr (s : State) : Nat := s.idx.toNat

/-- How many registers V0 to V[X] are (30_encoding.md R94, 46_misc_f.md R198). -/
def regCount (x : RegIdx) : Nat := x.val + 1

/-- The values of V0 to V[X], V0 first (46_misc_f.md R198). -/
def State.regsThrough (s : State) (x : RegIdx) : List Byte := s.regs.toList.take (regCount x)

/-- `for i in 0..X: V[i] <- MemRead(I + i, 1)`; registers above X keep their values (46_misc_f.md R199). -/
def State.loadRegsThrough (s : State) (x : RegIdx) : State :=
  { s with regs := s.regs.mapFinIdx fun i v _ => if i ≤ x.val then s.readByte (s.indexAddr + i) else v }

/-- The skip: `PC <- PC + 2` when the condition holds (41_skip_imm.md R135). -/
def State.skipIf (s : State) (c : Bool) : State := if c then s.advance else s

/-- Hundreds, tens and ones of a byte as byte values (46_misc_f.md R197). -/
def bcdDigits (v : Byte) : List Byte :=
  [BitVec.ofNat 8 (v.toNat / 100), BitVec.ofNat 8 (v.toNat / 10 % 10), BitVec.ofNat 8 (v.toNat % 10)]

/-- `V[X] mod 64`, the column of the sprite's origin (44_draw.md R170). -/
def spriteX (v : Byte) : Nat := v.toNat % Config.dispW

/-- `V[Y] mod 32`, the row of the sprite's origin (44_draw.md R170). -/
def spriteY (v : Byte) : Nat := v.toNat % Config.dispH

/-- The bits of a sprite row from the left: bit 7 first (10_state.md R52, 44_draw.md R170). -/
def rowBits (row : Byte) : List Bool :=
  [row.getLsbD 7, row.getLsbD 6, row.getLsbD 5, row.getLsbD 4, row.getLsbD 3, row.getLsbD 2, row.getLsbD 1,
   row.getLsbD 0]

end Sys2Proof.Machine
end

