-- ==== Sys2Proof/Machine/Commands.lean ====
section
/-! DEFINITION. The host's commands but STEP's instruction cycle: INIT, TICK, PAUSE_TOGGLE, the keypad, and the STEP of
a key wait (spec/60_exceptions.md R225 to R229, spec/70_reset_and_hazards.md R250 to R254). -/

namespace Sys2Proof.Machine

/-- A timer after one TICK: down by one, clamped at 0 (60_exceptions.md R229, 10_state.md R45). -/
def tickDown (t : Byte) : Byte := if t = 0 then 0 else t - 1

/-- TICK, in every execution state (60_exceptions.md R229; log 22). -/
def State.tick (s : State) : State := { s with dt := tickDown s.dt, st := tickDown s.st }

/-- PAUSE_TOGGLE (60_exceptions.md R227; log 22). -/
def State.pauseToggle (s : State) : State :=
  match s.execState with
  | .running => { s with resumeState := .running, execState := .paused }
  | .awaitingKey => { s with resumeState := .awaitingKey, execState := .paused }
  | .paused => { s with execState := s.resumeState.toExec }
  | .halted => s

/-- QUIT changes no core state (60_exceptions.md R228; log 22). -/
def State.quit (s : State) : State := s

/-- The input collaborator sets the key levels (60_exceptions.md R232; log 7). -/
def State.setKeys (s : State) (levels : Keypad) : State := { s with keys := levels }

/-- The STEP of a key wait: a transition from no key down to some key down captures a key that is down into V[kw_x] and
returns to Running; no instruction is executed and PC does not change (60_exceptions.md R226; log 23). -/
def State.awaitKey (s : State) : State :=
  if !s.kwPrevAny && s.anyKey then
    let k := pickKey (Config.keyChoice s.draws) s.keysDown
    { (s.drawn.setReg s.kwX (BitVec.ofNat 8 k.val)) with execState := .running }
  else { s with kwPrevAny := s.anyKey }

/-- Every piece of core state at its reset value (70_reset_and_hazards.md R250, R254). The parameters stay, and so does
what is not core state: the key levels, the commands to come, the reports already given and the count of free draws
(log 4, log 6, log 7, log 11, log 20). -/
def State.fresh (s : State) : State :=
  { State.resetWith s.params with
    keys := s.keys
    reports := s.reports
    commands := s.commands
    draws := s.draws }

/-- The machine a successful INIT makes: fresh, with the ROM at 0x200 (70_reset_and_hazards.md R250, R254). -/
def State.loaded (s : State) (rom : List Byte) : State :=
  { s.fresh with mem := Memory.writeBytes s.params.font [] Config.progBase rom }

/-- After a failed INIT: nothing is loaded, the machine before it is discarded, and none exists (70_reset_and_hazards.md
R251). What the discarded fields hold is never read (log 19). -/
def State.discarded (s : State) (len : Nat) : State := { s.fresh with initResult := .loadError len }

/-- INIT(rom), with a machine or without one: LoadError when the ROM is over 3584 bytes (70_reset_and_hazards.md R250 to
R254). -/
def State.init (s : State) (rom : List Byte) : State :=
  if Config.romMax < rom.length then s.discarded rom.length else s.loaded rom

/-- A command that needs a machine has no meaning where none exists (70_reset_and_hazards.md R251, 60_exceptions.md
R240; log 19). -/
def State.onMachine (s : State) (r : Result) : Result :=
  match s.initResult with
  | .ok => r
  | .loadError _ => .fault .noMachine

end Sys2Proof.Machine
end

