-- ==== Sys2Proof/Machine/Alu.lean ====
section
/-! DEFINITION. Unit 0x8: register arithmetic and logic (spec/42_alu.md). The flag is written first and V[X] last; a
line reads the registers as the earlier lines left them (spec/00_scope.md R15, the spec's decision D2; log 12). -/

namespace Sys2Proof.Machine

/-- 8XY0 (42_alu.md R140). -/
def execLdReg (x y : RegIdx) (s : State) : Result := .next (s.setReg x (s.reg y))

/-- 8XY1 (42_alu.md R141). -/
def execOrReg (x y : RegIdx) (s : State) : Result := .next (s.setReg x (s.reg x ||| s.reg y))

/-- 8XY2 (42_alu.md R142). -/
def execAndReg (x y : RegIdx) (s : State) : Result := .next (s.setReg x (s.reg x &&& s.reg y))

/-- 8XY3 (42_alu.md R143). -/
def execXorReg (x y : RegIdx) (s : State) : Result := .next (s.setReg x (s.reg x ^^^ s.reg y))

/-- 8XY4: the sum is computed before the flag is written (42_alu.md R144). -/
def execAddReg (x y : RegIdx) (s : State) : Result :=
  let sum := s.reg x + s.reg y
  let s₁ := s.setReg vF (carryFlag (s.reg x) (s.reg y))
  .next (s₁.setReg x sum)

/-- 8XY5: the difference reads V[X] and V[Y] after the flag is written (42_alu.md R145). -/
def execSubReg (x y : RegIdx) (s : State) : Result :=
  let s₁ := s.setReg vF (noBorrowFlag (s.reg x) (s.reg y))
  .next (s₁.setReg x (s₁.reg x - s₁.reg y))

/-- 8XY6: Y is not read; the shift reads V[X] after the flag is written (42_alu.md R146). -/
def execShr (x _y : RegIdx) (s : State) : Result :=
  let s₁ := s.setReg vF (shiftRightFlag (s.reg x))
  .next (s₁.setReg x (s₁.reg x >>> 1))

/-- 8XY7: the difference reads V[X] and V[Y] after the flag is written (42_alu.md R147). -/
def execSubnReg (x y : RegIdx) (s : State) : Result :=
  let s₁ := s.setReg vF (noBorrowFlag (s.reg y) (s.reg x))
  .next (s₁.setReg x (s₁.reg y - s₁.reg x))

/-- 8XYE: Y is not read; the shift reads V[X] after the flag is written (42_alu.md R148). -/
def execShl (x _y : RegIdx) (s : State) : Result :=
  let s₁ := s.setReg vF (shiftLeftFlag (s.reg x))
  .next (s₁.setReg x (s₁.reg x <<< 1))

end Sys2Proof.Machine
end

