-- ==== Sys2Proof/Machine/Control.lean ====
section
/-! DEFINITION. Units 0x0 to 0x2: clear, return, jump, call (spec/40_control.md). Every meaning is run after the fetch
has set PC to the instruction's address plus 2 (spec/30_encoding.md R95). -/

namespace Sys2Proof.Machine

/-- 00E0 (40_control.md R120). -/
def execCls (s : State) : Result := .next { s with disp := Display.blank }

/-- 00EE (40_control.md R121). -/
def execRet (s : State) : Result :=
  match s.pop with
  | .ok (v, s') => .next (s'.setPc v)
  | .error halted => .next halted

/-- 1NNN (40_control.md R122). -/
def execJp (nnn : BitVec 12) (s : State) : Result := .next (s.setPc (zext16 nnn))

/-- 2NNN: the return address is the PC after the advance (40_control.md R123). -/
def execCall (nnn : BitVec 12) (s : State) : Result :=
  match s.push s.pc with
  | .ok s' => .next (s'.setPc (zext16 nnn))
  | .error halted => .next halted

end Sys2Proof.Machine
end

