-- ==== Sys2Proof/Machine/Draw.lean ====
section
/-! DEFINITION. Unit 0xD: sprite draw (spec/44_draw.md R170). -/

namespace Sys2Proof.Machine

/-- The display while a sprite is drawn, and whether some pixel went from on to off so far (44_draw.md R170). -/
structure Canvas where
  disp : Display
  hit : Bool
  deriving DecidableEq, Repr

/-- One set sprite bit: a pixel that was on is a hit, and the pixel is inverted (44_draw.md R170). -/
def Canvas.toggle (c : Canvas) (x : Fin 64) (y : Fin 32) : Canvas :=
  { disp := c.disp.flip x y, hit := c.hit || c.disp.pixel x y }

/-- The bits of one sprite row from column x on, skipping what is past the right edge (44_draw.md R170). -/
def drawRow (y : Fin 32) : Nat → List Bool → Canvas → Canvas
  | _, [], c => c
  | x, b :: bs, c =>
    if h : x < 64 then drawRow y (x + 1) bs (if b then c.toggle ⟨x, h⟩ y else c) else c

/-- The rows of a sprite from row y on, skipping what is past the bottom edge (44_draw.md R170). -/
def drawRows (x : Nat) : Nat → List Byte → Canvas → Canvas
  | _, [], c => c
  | y, row :: rows, c =>
    if h : y < 32 then drawRows x (y + 1) rows (drawRow ⟨y, h⟩ x (rowBits row) c) else c

/-- The display and the hit after drawing N rows from I at the origin of V[X], V[Y] (44_draw.md R170). -/
def State.drawSprite (s : State) (x y : RegIdx) (n : Nat) : Canvas :=
  drawRows (spriteX (s.reg x)) (spriteY (s.reg y)) (s.readBytes s.indexAddr n) { disp := s.disp, hit := false }

/-- DXYN: all N sprite bytes are range-checked first, clipped rows included (log 25); VF is written last, after the
origin was read and every pixel drawn (44_draw.md R170). -/
def execDrw (x y : RegIdx) (n : Nat) (s : State) : Result :=
  let c := s.drawSprite x y n
  .next (s.withRange s.indexAddr n (State.setReg { s with disp := c.disp } vF (collisionFlag c.hit)))

end Sys2Proof.Machine
end

