-- ==== Sys2Proof/Machine/IndexJumpRand.lean ====
section
/-! DEFINITION. Units 0x9 to 0xC: register skip, index load, offset jump, random (spec/43_index_jump_rand.md). -/

namespace Sys2Proof.Machine

/-- 9XY0 (43_index_jump_rand.md R160). -/
def execSneReg (x y : RegIdx) (s : State) : Result := .next (s.skipIf (s.reg x != s.reg y))

/-- ANNN (43_index_jump_rand.md R161). -/
def execLdI (nnn : BitVec 12) (s : State) : Result := .next (s.setIdx (zext16 nnn))

/-- BNNN: the sum is at most 0x10FE, so exact in 16 bits (43_index_jump_rand.md R162). -/
def execJpV0 (nnn : BitVec 12) (s : State) : Result := .next (s.setPc (zext16 nnn + byteToWord (s.reg 0)))

/-- CXNN: consumes one byte of the random source (43_index_jump_rand.md R163, 60_exceptions.md R235; log 8). -/
def execRnd (x : RegIdx) (nn : Byte) (s : State) : Result := .next (s.drawn.setReg x (s.randomByte &&& nn))

end Sys2Proof.Machine
end

