-- ==== Sys2Proof/Machine/Keys.lean ====
section
/-! DEFINITION. Unit 0xE: key skips (spec/45_keypad.md). -/

namespace Sys2Proof.Machine

/-- EX9E (45_keypad.md R180, R182). -/
def execSkp (x : RegIdx) (s : State) : Result :=
  .next ((s.afterKeyTest (s.reg x)).skipIf (s.keyDown (s.reg x)))

/-- EXA1 (45_keypad.md R181, R182). -/
def execSknp (x : RegIdx) (s : State) : Result :=
  .next ((s.afterKeyTest (s.reg x)).skipIf (!s.keyDown (s.reg x)))

end Sys2Proof.Machine
end

