-- ==== Sys2Proof/Machine/MiscF.lean ====
section
/-! DEFINITION. Unit 0xF: timers, key wait, index arithmetic, decimal digits, block store and load
(spec/46_misc_f.md). -/

namespace Sys2Proof.Machine

/-- FX07 (46_misc_f.md R190). -/
def execLdVxDt (x : RegIdx) (s : State) : Result := .next (s.setReg x s.dt)

/-- FX0A: enters the wait and samples the keypad; V[X] is written by the STEP that captures (46_misc_f.md R191,
60_exceptions.md R226). -/
def execLdVxKey (x : RegIdx) (s : State) : Result :=
  .next { s with kwX := x, kwPrevAny := s.anyKey, execState := .awaitingKey }

/-- FX15 (46_misc_f.md R193). -/
def execLdDtVx (x : RegIdx) (s : State) : Result := .next (s.setDt (s.reg x))

/-- FX18 (46_misc_f.md R194). -/
def execLdStVx (x : RegIdx) (s : State) : Result := .next (s.setSt (s.reg x))

/-- FX1E: wraps at 16 bits, no flag, no error (46_misc_f.md R195; log 26). -/
def execAddIVx (x : RegIdx) (s : State) : Result := .next (s.setIdx (s.idx + byteToWord (s.reg x)))

/-- FX29: not masked to a digit; at most 1275 (46_misc_f.md R196). -/
def execLdFont (x : RegIdx) (s : State) : Result := .next (s.setIdx (byteToWord (s.reg x) * 5))

/-- FX33: the three addresses are checked before any byte is written (46_misc_f.md R197). -/
def execLdBcd (x : RegIdx) (s : State) : Result :=
  .next (s.withRange s.indexAddr 3 (s.writeBytes s.indexAddr (bcdDigits (s.reg x))))

/-- FX55: all addresses are checked before any byte is written; I is unchanged (46_misc_f.md R198). -/
def execStoreRegs (x : RegIdx) (s : State) : Result :=
  .next (s.withRange s.indexAddr (regCount x) (s.writeBytes s.indexAddr (s.regsThrough x)))

/-- FX65: all addresses are checked before any register is written; I is unchanged (46_misc_f.md R199). -/
def execLoadRegs (x : RegIdx) (s : State) : Result :=
  .next (s.withRange s.indexAddr (regCount x) (s.loadRegsThrough x))

end Sys2Proof.Machine
end

