-- ==== Sys2Proof/Machine/SkipImm.lean ====
section
/-! DEFINITION. Units 0x3 to 0x7: skips, immediate load and add (spec/41_skip_imm.md). -/

namespace Sys2Proof.Machine

/-- 3XNN (41_skip_imm.md R130). -/
def execSeImm (x : RegIdx) (nn : Byte) (s : State) : Result := .next (s.skipIf (s.reg x == nn))

/-- 4XNN (41_skip_imm.md R131). -/
def execSneImm (x : RegIdx) (nn : Byte) (s : State) : Result := .next (s.skipIf (s.reg x != nn))

/-- 5XY0 (41_skip_imm.md R132). -/
def execSeReg (x y : RegIdx) (s : State) : Result := .next (s.skipIf (s.reg x == s.reg y))

/-- 6XNN (41_skip_imm.md R133). -/
def execLdImm (x : RegIdx) (nn : Byte) (s : State) : Result := .next (s.setReg x nn)

/-- 7XNN: wraps at 256, no flag (41_skip_imm.md R134). -/
def execAddImm (x : RegIdx) (nn : Byte) (s : State) : Result := .next (s.setReg x (s.reg x + nn))

end Sys2Proof.Machine
end

