-- ==== Sys2Proof/Machine/Cycle.lean ====
section
/-! DEFINITION. The instruction cycle of STEP and the choice of the next command (spec/30_encoding.md R95,
spec/60_exceptions.md R225, R240, R241). -/

namespace Sys2Proof.Machine

/-- The fetch: `MemRead(PC, 2)`, big-endian, or the lowest address out of range (30_encoding.md R95, 20_memory.md R66,
R67). -/
def State.fetch (s : State) : Except Nat (List Byte) :=
  match checkRange s.pc.toNat 2 with
  | none => .ok (s.readBytes s.pc.toNat 2)
  | some bad => .error bad

/-- The word of an instruction that decoding rejected, for its report (60_exceptions.md R212). -/
def rejectedWord : DecodeError → Word
  | .invalidOpcode w => w
  | .truncated => 0

/-- STEP in Running: fetch, advance PC, decode, execute (30_encoding.md R95). A fetch out of range halts with PC still
at the fetch address; an invalid opcode is a reported no-op (60_exceptions.md R213, R215). -/
def State.runInstruction (s : State) : Result :=
  match s.fetch with
  | .error bad => .next (s.halt .outOfRange s.pc bad)
  | .ok bytes =>
    match decodeBytes bytes with
    | .ok (i, _) => exec i s.advance
    | .error e => .next (s.advance.reportInvalid (rejectedWord e) s.pc)

/-- STEP by execution state (60_exceptions.md R225): no effect in Paused and Halted (log 22). -/
def State.stepCommand (s : State) : Result :=
  match s.execState with
  | .running => s.runInstruction
  | .awaitingKey => .next s.awaitKey
  | .paused => .next s
  | .halted => .next s

/-- One command of the host (60_exceptions.md R240). STEP, TICK and PAUSE_TOGGLE need a machine; QUIT and the input
collaborator change no core state, with a machine or without one (70_reset_and_hazards.md R251; log 19). -/
def State.command (s : State) : Command → Result
  | .init rom => .next (s.init rom)
  | .step => s.onMachine s.stepCommand
  | .tick => s.onMachine (.next s.tick)
  | .pauseToggle => s.onMachine (.next s.pauseToggle)
  | .quit => .next s.quit
  | .keys levels => .next (s.setKeys levels)

/-- The next command of the host: the first of those that wait, taken off the list, or STEP when none waits
(60_exceptions.md R241; log 6). -/
def State.nextCommand (s : State) : Result :=
  match s.commands with
  | [] => State.command s .step
  | c :: cs => State.command { s with commands := cs } c

/-- A word stored where the next fetch reads, high byte first, when those two addresses exist (20_memory.md R70). -/
def State.placeWord (s : State) (w : Word) : State :=
  if s.pc.toNat + 2 ≤ Config.memSize then s.writeBytes s.pc.toNat [w.hi, w.lo] else s

/-- Ready to run an instruction next: a machine that is Running, and the host's next command is STEP (log 21). -/
def State.readyToStep (s : State) : State :=
  { s with initResult := .ok, execState := .running, commands := if s.commands = [] then [] else .step :: s.commands }

end Sys2Proof.Machine
end

