-- ==== Sys2Proof/Machine/Step.lean ====
section
/-! DEFINITION. One step of the machine: one command of the host, STEP when the host has none other waiting
(spec/60_exceptions.md R240, R241; log 6). -/

namespace Sys2Proof.Machine

/-- One atomic transition of the core (60_exceptions.md R240). -/
def step (s : State) : Host.Outcome State Fault Refusal := s.nextCommand

/-- `s` with an instruction's word where the next step fetches it, the machine Running and STEP the next command, so
that the next step runs it (log 21). Bits at and above `nbits` are 0. -/
def State.withFetchWord (s : State) (nbits w : Nat) : State :=
  (s.placeWord (BitVec.ofNat 16 (w % 2 ^ nbits))).readyToStep

end Sys2Proof.Machine
end

