-- ==== Sys2Proof/Safety.lean ====
section
/-! DEFINITION. The terms claims are stated in: the pieces of state and what an instruction leaves unchanged (spec/
00_scope.md R17), what a halt is (spec/60_exceptions.md R213), and the invariant of the machine. -/

namespace Sys2Proof.Machine

/-- The pieces of state, every field of State in one of them. -/
inductive Part where
  | regs
  | pc
  | idx
  | sp
  | stack
  | dt
  | st
  | mem
  | disp
  | execState
  | resumeState
  | keyWait
  | haltCause
  | initResult
  | keys
  | reports
  | params
  | commands
  | draws
  deriving DecidableEq, Repr

/-- Two states agree on a piece of state: memory as every byte reads, the display as every pixel shows. -/
def Part.same (s t : State) : Part → Prop
  | .regs => ∀ r, t.reg r = s.reg r
  | .pc => t.pc = s.pc
  | .idx => t.idx = s.idx
  | .sp => t.sp = s.sp
  | .stack => t.stack = s.stack
  | .dt => t.dt = s.dt
  | .st => t.st = s.st
  | .mem => ∀ a, t.readByte a = s.readByte a
  | .disp => ∀ x y, t.pixel x y = s.pixel x y
  | .execState => t.execState = s.execState
  | .resumeState => t.resumeState = s.resumeState
  | .keyWait => t.kwX = s.kwX ∧ t.kwPrevAny = s.kwPrevAny
  | .haltCause => t.haltCause = s.haltCause
  | .initResult => t.initResult = s.initResult
  | .keys => t.keys = s.keys
  | .reports => t.reports = s.reports
  | .params => t.params = s.params
  | .commands => t.commands = s.commands
  | .draws => t.draws = s.draws

/-- From `s` to `t` nothing changes but, at most, the listed pieces of state (00_scope.md R17). -/
def SameBut (changed : List Part) (s t : State) : Prop := ∀ p, p ∉ changed → Part.same s t p

/-- A word is the encoding of an instruction: it decodes to it and is what encoding it gives (30_encoding.md R97). -/
def Encodes (w : Word) (i : Instr) : Prop := decodeWord w = .ok i ∧ encode i = w

/-- `t` is `s` halted by a fatal error of the instruction at `a`: exec_state, halt_cause and one HaltReport, nothing
else, PC included (60_exceptions.md R212, R213). -/
def HaltedBy (e : HaltCause) (a : Word) (detail : Nat) (s t : State) : Prop :=
  t.execState = .halted ∧ t.haltCause = e ∧ t.reports = .halt e a detail :: s.reports ∧
    SameBut [.execState, .haltCause, .reports] s t

end Sys2Proof.Machine

namespace Sys2Proof

open Sys2Proof.Machine

/-! ### What each instruction writes (00_scope.md R17; the writer lists of 10_state.md R33, R38, R40, R43, R44, R47 and
20_memory.md R63) -/

/-- The pieces of state an instruction may write when it raises no error. The draws are the model's own. -/
def Instr.writes : Instr → List Part
  | .cls => [.disp]
  | .ret => [.pc, .sp]
  | .jp _ => [.pc]
  | .call _ => [.pc, .sp, .stack]
  | .seImm _ _ => [.pc]
  | .sneImm _ _ => [.pc]
  | .seReg _ _ => [.pc]
  | .ldImm _ _ => [.regs]
  | .addImm _ _ => [.regs]
  | .ldReg _ _ => [.regs]
  | .orReg _ _ => [.regs]
  | .andReg _ _ => [.regs]
  | .xorReg _ _ => [.regs]
  | .addReg _ _ => [.regs]
  | .subReg _ _ => [.regs]
  | .shr _ _ => [.regs]
  | .subnReg _ _ => [.regs]
  | .shl _ _ => [.regs]
  | .sneReg _ _ => [.pc]
  | .ldI _ => [.idx]
  | .jpV0 _ => [.pc]
  | .rnd _ _ => [.regs, .draws]
  | .drw _ _ _ => [.regs, .disp]
  | .skp _ => [.pc, .draws]
  | .sknp _ => [.pc, .draws]
  | .ldVxDt _ => [.regs]
  | .ldVxKey _ => [.execState, .keyWait]
  | .ldDtVx _ => [.dt]
  | .ldStVx _ => [.st]
  | .addIVx _ => [.idx]
  | .ldFont _ => [.idx]
  | .ldBcd _ => [.mem]
  | .storeRegs _ => [.mem]
  | .loadRegs _ => [.regs]

/-- Whether an instruction may write general register r: its destination, VF where it sets a flag, V0 to V[X] for FX65
(10_state.md R31, R33). -/
def Instr.writesReg (r : RegIdx) : Instr → Bool
  | .cls => false
  | .ret => false
  | .jp _ => false
  | .call _ => false
  | .seImm _ _ => false
  | .sneImm _ _ => false
  | .seReg _ _ => false
  | .ldImm x _ => r == x
  | .addImm x _ => r == x
  | .ldReg x _ => r == x
  | .orReg x _ => r == x
  | .andReg x _ => r == x
  | .xorReg x _ => r == x
  | .addReg x _ => r == x || r == vF
  | .subReg x _ => r == x || r == vF
  | .shr x _ => r == x || r == vF
  | .subnReg x _ => r == x || r == vF
  | .shl x _ => r == x || r == vF
  | .sneReg _ _ => false
  | .ldI _ => false
  | .jpV0 _ => false
  | .rnd x _ => r == x
  | .drw _ _ _ => r == vF
  | .skp _ => false
  | .sknp _ => false
  | .ldVxDt x => r == x
  | .ldVxKey _ => false
  | .ldDtVx _ => false
  | .ldStVx _ => false
  | .addIVx _ => false
  | .ldFont _ => false
  | .ldBcd _ => false
  | .storeRegs _ => false
  | .loadRegs x => decide (r ≤ x)

/-- Whether an instruction reads the keypad (10_state.md R48). -/
def Instr.readsKeypad : Instr → Bool
  | .cls => false
  | .ret => false
  | .jp _ => false
  | .call _ => false
  | .seImm _ _ => false
  | .sneImm _ _ => false
  | .seReg _ _ => false
  | .ldImm _ _ => false
  | .addImm _ _ => false
  | .ldReg _ _ => false
  | .orReg _ _ => false
  | .andReg _ _ => false
  | .xorReg _ _ => false
  | .addReg _ _ => false
  | .subReg _ _ => false
  | .shr _ _ => false
  | .subnReg _ _ => false
  | .shl _ _ => false
  | .sneReg _ _ => false
  | .ldI _ => false
  | .jpV0 _ => false
  | .rnd _ _ => false
  | .drw _ _ _ => false
  | .skp _ => true
  | .sknp _ => true
  | .ldVxDt _ => false
  | .ldVxKey _ => true
  | .ldDtVx _ => false
  | .ldStVx _ => false
  | .addIVx _ => false
  | .ldFont _ => false
  | .ldBcd _ => false
  | .storeRegs _ => false
  | .loadRegs _ => false

end Sys2Proof

namespace Sys2Proof.Machine

/-- An outcome with the key levels replaced in its next state. -/
def Result.withKeys (levels : Keypad) : Result → Result
  | .next t => .next (t.setKeys levels)
  | .fault f => .fault f
  | .refused r => .refused r

/-! ### The sprite as a set of pixels (44_draw.md R170) -/

/-- Whether the N-row sprite at I, drawn from the origin of V[X], V[Y], has a 1 bit at the displayed pixel (px, py):
the origin wraps, the sprite clips, bit 7 of a row is its leftmost pixel (44_draw.md R170). -/
def State.spriteBit (s : State) (x y : RegIdx) (n : Nat) (px : Fin 64) (py : Fin 32) : Bool :=
  let ox := (s.reg x).toNat % 64
  let oy := (s.reg y).toNat % 32
  decide (ox ≤ px.val) && decide (px.val < ox + 8) && decide (oy ≤ py.val) && decide (py.val < oy + n) &&
    (s.readByte (s.indexAddr + (py.val - oy))).getLsbD (7 - (px.val - ox))

/-! ### The invariant -/

/-- The parameters are as the spec bounds them: STACK_DEPTH at least 12 (00_scope.md R9) and, DEDUCED, within the
16-bit SP that counts up to it (10_state.md R40; log 3); FONT 80 bytes (10_state.md R52). -/
def Params.Ok (p : Params) : Prop := 12 ≤ p.stackDepth ∧ p.stackDepth ≤ 65535 ∧ p.font.length = 80

/-- Memory is in its canonical form (log 1). -/
def MemoryOk (s : State) : Prop := Memory.wf s.params.font s.mem = true

/-- The stack has STACK_DEPTH entries and 0 ≤ SP ≤ STACK_DEPTH (10_state.md R39, R40). -/
def StackOk (s : State) : Prop := s.stack.length = s.params.stackDepth ∧ s.sp.toNat ≤ s.params.stackDepth

/-- PC is a value a run can reach, at most 0x10FE, and every return address at most 0x1000, so no update of PC wraps
(10_state.md R37). -/
def PcOk (s : State) : Prop := s.pc.toNat ≤ 0x10FE ∧ ∀ a ∈ s.stack, a.toNat ≤ 0x1000

/-- halt_cause is NONE exactly outside Halted (10_state.md R51, 60_exceptions.md R211, R213). -/
def HaltOk (s : State) : Prop := s.execState = .halted ↔ s.haltCause ≠ .none

/-- The invariant of the machine. -/
structure Inv (s : State) : Prop where
  params : s.params.Ok
  memory : MemoryOk s
  stack : StackOk s
  pc : PcOk s
  halt : HaltOk s

/-! ### The commands -/

/-- The command the next step runs (60_exceptions.md R240, R241; log 6). -/
def State.pending (s : State) : Command := s.commands.headD .step

/-- A machine exists: the last INIT succeeded (70_reset_and_hazards.md R250, R251). -/
def State.Exists (s : State) : Prop := s.initResult = .ok

/-- The execution state of the machine, none where no machine exists (60_exceptions.md R224). -/
def State.phase (s : State) : Option ExecState :=
  match s.initResult with
  | .ok => some s.execState
  | .loadError _ => none

/-- The next step runs one instruction cycle: STEP is the next command and a machine exists and is Running
(30_encoding.md R95). -/
def RunsNext (s : State) : Prop := s.pending = .step ∧ s.Exists ∧ s.execState = .running

/-- `s` with the command of the next step taken off the list. -/
def State.taken (s : State) : State := { s with commands := s.commands.tail }

/-- The two bytes of the next instruction exist (20_memory.md R67). -/
def FetchOk (s : State) : Prop := s.pc.toNat + 2 ≤ Config.memSize

/-- The word the next STEP fetches, big-endian (20_memory.md R70, 30_encoding.md R95). -/
def State.fetchedWord (s : State) : Word := Word.ofBytes (s.readByte s.pc.toNat) (s.readByte (s.pc.toNat + 1))

/-- The transitions of `exec_state`, and no others (60_exceptions.md R224); none is where no machine exists. The argument
`resume` is resume_state. -/
def Transition (resume : ResumeState) : Command → Option ExecState → Option ExecState → Prop
  | .init rom, _, t => t = if rom.length ≤ 3584 then some .running else none
  | .step, some .running, t => t = some .running ∨ t = some .awaitingKey ∨ t = some .halted
  | .step, some .awaitingKey, t => t = some .running ∨ t = some .awaitingKey
  | .step, some .paused, t => t = some .paused
  | .step, some .halted, t => t = some .halted
  | .step, none, _ => False
  | .tick, some s, t => t = some s
  | .tick, none, _ => False
  | .pauseToggle, some .running, t => t = some .paused
  | .pauseToggle, some .awaitingKey, t => t = some .paused
  | .pauseToggle, some .paused, t => t = some resume.toExec
  | .pauseToggle, some .halted, t => t = some .halted
  | .pauseToggle, none, _ => False
  | .quit, s, t => t = s
  | .keys _, s, t => t = s

end Sys2Proof.Machine
end

