-- ==== Sys2Proof/Certificates/Slice0/Obligations.lean ====
section
/-! DEFINITION. The statements about the machine, from the numbered rules of spec/. Per-instruction statements are about
`exec` at the state after the fetch has advanced PC (spec/30_encoding.md R95); `StepRunsTheDecodedInstruction` ties them
to `step`. -/

open Sys2Proof Sys2Proof.Machine

/-! ### Encoding -/

/-- Words written out nibble by nibble from the patterns of the opcode map decode to their instructions
(30_encoding.md R97), one or more for every unit. -/
def Obligations.WordsOfTheMapDecode : Prop :=
  decodeWord 0x00E0#16 = .ok .cls ∧ decodeWord 0x00EE#16 = .ok .ret ∧
  decodeWord 0x1234#16 = .ok (.jp 0x234#12) ∧ decodeWord 0x2ABC#16 = .ok (.call 0xABC#12) ∧
  decodeWord 0x3A7F#16 = .ok (.seImm 10 0x7F#8) ∧ decodeWord 0x4B80#16 = .ok (.sneImm 11 0x80#8) ∧
  decodeWord 0x5120#16 = .ok (.seReg 1 2) ∧ decodeWord 0x6A9C#16 = .ok (.ldImm 10 0x9C#8) ∧
  decodeWord 0x71FF#16 = .ok (.addImm 1 0xFF#8) ∧ decodeWord 0x8125#16 = .ok (.subReg 1 2) ∧
  decodeWord 0x8AB6#16 = .ok (.shr 10 11) ∧ decodeWord 0x9CD0#16 = .ok (.sneReg 12 13) ∧
  decodeWord 0xAFFF#16 = .ok (.ldI 0xFFF#12) ∧ decodeWord 0xB5FE#16 = .ok (.jpV0 0x5FE#12) ∧
  decodeWord 0xC30F#16 = .ok (.rnd 3 0x0F#8) ∧ decodeWord 0xD12F#16 = .ok (.drw 1 2 15) ∧
  decodeWord 0xE59E#16 = .ok (.skp 5) ∧ decodeWord 0xE5A1#16 = .ok (.sknp 5) ∧
  decodeWord 0xF30A#16 = .ok (.ldVxKey 3) ∧ decodeWord 0xFA33#16 = .ok (.ldBcd 10) ∧
  decodeWord 0xF265#16 = .ok (.loadRegs 2)

/-- Decoding the bytes of any well-formed instruction gives it back, with whatever bytes follow left over. -/
def Obligations.DecodeOfEncodeIsTheInstruction : Prop :=
  ∀ (i : Instr) (rest : List Byte), i.wellFormed = true → decodeBytes (encodeBytes i ++ rest) = .ok (i, rest)

/-- A word that decodes decodes to a well-formed instruction whose encoding is that word. -/
def Obligations.EncodeOfDecodeIsTheWord : Prop :=
  ∀ (w : Word) (i : Instr), decodeWord w = .ok i → i.wellFormed = true ∧ encode i = w

/-- Decoding gives an instruction exactly to the words of the opcode map, each the instruction of its own row, and no
word is in two rows (30_encoding.md R97). -/
def Obligations.DecodesExactlyTheWordsOfTheMap : Prop :=
  (∀ (w : Word) (i : Instr), decodeWord w = .ok i → rowOf i ∈ opcodeMap ∧ (rowOf i).covers w = true) ∧
  (∀ (w : Word) (r : OpRow), r ∈ opcodeMap → r.covers w = true → ∃ i, decodeWord w = .ok i ∧ rowOf i = r) ∧
  (∀ (w : Word) (r r' : OpRow), r ∈ opcodeMap → r' ∈ opcodeMap → r.covers w = true → r'.covers w = true → r = r')

/-- The words decoding rejects, by name, are exactly those the spec lists unit by unit (30_encoding.md R99; exact
patterns are the spec's decision D11, log 13). -/
def Obligations.RejectsExactlyTheInvalidWords : Prop :=
  ∀ w : Word, decodeWord w = .error (.invalidOpcode w) ↔
    (w.toNat / 4096 = 0x0 ∧ w ≠ 0x00E0#16 ∧ w ≠ 0x00EE#16) ∨
    ((w.toNat / 4096 = 0x5 ∨ w.toNat / 4096 = 0x9) ∧ w.toNat % 16 ≠ 0) ∨
    (w.toNat / 4096 = 0x8 ∧ w.toNat % 16 ∈ [0x8, 0x9, 0xA, 0xB, 0xC, 0xD, 0xF]) ∨
    (w.toNat / 4096 = 0xE ∧ w.toNat % 256 ∉ [0x9E, 0xA1]) ∨
    (w.toNat / 4096 = 0xF ∧ w.toNat % 256 ∉ [0x07, 0x0A, 0x15, 0x18, 0x1E, 0x29, 0x33, 0x55, 0x65])

/-! ### Units 0x0 to 0x2 -/

/-- 00E0 turns every pixel off and changes nothing else (40_control.md R120). -/
def Obligations.ClearTurnsEveryPixelOff : Prop :=
  ∀ s : State, Encodes 0x00E0#16 .cls ∧
    ∃ t, exec .cls s = .next t ∧ (∀ x y, t.pixel x y = false) ∧ SameBut [.disp] s t

/-- 00EE sets PC to the top entry and lowers SP by one, the entry keeping its value; on an empty stack it halts with
StackUnderflow and PC as it is, a + 2 (40_control.md R121, 10_state.md R42). The state at the halt is the spec's decision
D7, D9, D12 (log 14). -/
def Obligations.ReturnPopsOrUnderflows : Prop :=
  ∀ s : State, Encodes 0x00EE#16 .ret ∧
    (StackOk s → s.sp ≠ 0 → ∃ t, exec .ret s = .next t ∧ s.stack[s.sp.toNat - 1]? = some t.pc ∧
      t.sp.toNat = s.sp.toNat - 1 ∧ SameBut [.pc, .sp] s t) ∧
    (s.sp = 0 → ∃ t, exec .ret s = .next t ∧ HaltedBy .stackUnderflow (s.pc - 2) 0 s t)

/-- 1NNN sets PC to NNN and changes nothing else (40_control.md R122). -/
def Obligations.JumpSetsPc : Prop :=
  ∀ (nnn : BitVec 12) (s : State), Encodes (packNNN 0x1 nnn) (.jp nnn) ∧
    ∃ t, exec (.jp nnn) s = .next t ∧ t.pc.toNat = nnn.toNat ∧ SameBut [.pc] s t

/-- 2NNN writes PC (the address of the next instruction) to stack[SP], raises SP by one and jumps; on a full stack it
halts with StackOverflow, stack and SP unchanged and PC as it is, a + 2 (40_control.md R123, 10_state.md R41). The state
at the halt is the spec's decision D7, D9, D12 (log 14). -/
def Obligations.CallPushesOrOverflows : Prop :=
  ∀ (nnn : BitVec 12) (s : State), Encodes (packNNN 0x2 nnn) (.call nnn) ∧
    (s.params.Ok → StackOk s → s.sp.toNat < s.params.stackDepth → ∃ t, exec (.call nnn) s = .next t ∧
      t.stack[s.sp.toNat]? = some s.pc ∧ t.stack.length = s.stack.length ∧
      (∀ k, k ≠ s.sp.toNat → t.stack[k]? = s.stack[k]?) ∧ t.sp.toNat = s.sp.toNat + 1 ∧
      t.pc.toNat = nnn.toNat ∧ SameBut [.pc, .sp, .stack] s t) ∧
    (s.sp.toNat = s.params.stackDepth → ∃ t, exec (.call nnn) s = .next t ∧
      HaltedBy .stackOverflow (s.pc - 2) 0 s t)

/-- A return finds the address of the instruction after its call, whatever ran in between, if the stack is as the call
left it; SP is then as before the call (40_control.md R121). -/
def Obligations.CallThenReturnComesBack : Prop :=
  ∀ (nnn : BitVec 12) (s : State), s.params.Ok → StackOk s → s.sp.toNat < s.params.stackDepth →
    ∃ t, exec (.call nnn) s = .next t ∧
      ∀ u : State, u.sp = t.sp → u.stack = t.stack →
        ∃ v, exec .ret u = .next v ∧ v.pc = s.pc ∧ v.sp = s.sp

/-- Twelve nested calls fit, whatever STACK_DEPTH is (10_state.md R39, 00_scope.md R9). -/
def Obligations.TwelveCallsAlwaysFit : Prop :=
  ∀ (nnn : BitVec 12) (s : State), s.params.Ok → StackOk s → s.sp.toNat < 12 →
    ∃ t, exec (.call nnn) s = .next t ∧ t.execState = s.execState ∧ t.sp.toNat = s.sp.toNat + 1 ∧ StackOk t

/-! ### Units 0x3 to 0x7 and 0x9 -/

/-- 3XNN and 4XNN add 2 to PC when V[X] = NN, V[X] ≠ NN, and change nothing else (41_skip_imm.md R130, R131). -/
def Obligations.ImmediateSkips : Prop :=
  ∀ (x : RegIdx) (nn : Byte) (s : State),
    (Encodes (packXNN 0x3 x nn) (.seImm x nn) ∧ ∃ t, exec (.seImm x nn) s = .next t ∧
      t.pc = (if s.reg x = nn then s.pc + 2 else s.pc) ∧ SameBut [.pc] s t) ∧
    (Encodes (packXNN 0x4 x nn) (.sneImm x nn) ∧ ∃ t, exec (.sneImm x nn) s = .next t ∧
      t.pc = (if s.reg x ≠ nn then s.pc + 2 else s.pc) ∧ SameBut [.pc] s t)

/-- 5XY0 and 9XY0 add 2 to PC when V[X] = V[Y], V[X] ≠ V[Y], and change nothing else (41_skip_imm.md R132,
43_index_jump_rand.md R160). -/
def Obligations.RegisterSkips : Prop :=
  ∀ (x y : RegIdx) (s : State),
    (Encodes (packXYN 0x5 x y 0x0) (.seReg x y) ∧ ∃ t, exec (.seReg x y) s = .next t ∧
      t.pc = (if s.reg x = s.reg y then s.pc + 2 else s.pc) ∧ SameBut [.pc] s t) ∧
    (Encodes (packXYN 0x9 x y 0x0) (.sneReg x y) ∧ ∃ t, exec (.sneReg x y) s = .next t ∧
      t.pc = (if s.reg x ≠ s.reg y then s.pc + 2 else s.pc) ∧ SameBut [.pc] s t)

/-- 6XNN writes NN and 7XNN adds NN modulo 256, no flag: only V[X] changes (41_skip_imm.md R133, R134). -/
def Obligations.ImmediateLoadAndAdd : Prop :=
  ∀ (x : RegIdx) (nn : Byte) (s : State),
    (Encodes (packXNN 0x6 x nn) (.ldImm x nn) ∧ ∃ t, exec (.ldImm x nn) s = .next t ∧ t.reg x = nn ∧
      (∀ r, r ≠ x → t.reg r = s.reg r) ∧ SameBut [.regs] s t) ∧
    (Encodes (packXNN 0x7 x nn) (.addImm x nn) ∧ ∃ t, exec (.addImm x nn) s = .next t ∧
      (t.reg x).toNat = ((s.reg x).toNat + nn.toNat) % 256 ∧ (∀ r, r ≠ x → t.reg r = s.reg r) ∧
      SameBut [.regs] s t)

/-! ### Unit 0x8 -/

/-- 8XY0 to 8XY3 write V[Y], OR, AND, XOR to V[X], bit by bit, and change nothing else: VF is untouched unless it is
V[X] (42_alu.md R140 to R143). -/
def Obligations.CopyAndLogic : Prop :=
  ∀ (x y : RegIdx) (s : State),
    (Encodes (packXYN 0x8 x y 0x0) (.ldReg x y) ∧ ∃ t, exec (.ldReg x y) s = .next t ∧ t.reg x = s.reg y ∧
      (∀ r, r ≠ x → t.reg r = s.reg r) ∧ SameBut [.regs] s t) ∧
    (Encodes (packXYN 0x8 x y 0x1) (.orReg x y) ∧ ∃ t, exec (.orReg x y) s = .next t ∧
      (∀ k, (t.reg x).getLsbD k = ((s.reg x).getLsbD k || (s.reg y).getLsbD k)) ∧
      (∀ r, r ≠ x → t.reg r = s.reg r) ∧ SameBut [.regs] s t) ∧
    (Encodes (packXYN 0x8 x y 0x2) (.andReg x y) ∧ ∃ t, exec (.andReg x y) s = .next t ∧
      (∀ k, (t.reg x).getLsbD k = ((s.reg x).getLsbD k && (s.reg y).getLsbD k)) ∧
      (∀ r, r ≠ x → t.reg r = s.reg r) ∧ SameBut [.regs] s t) ∧
    (Encodes (packXYN 0x8 x y 0x3) (.xorReg x y) ∧ ∃ t, exec (.xorReg x y) s = .next t ∧
      (∀ k, (t.reg x).getLsbD k = ((s.reg x).getLsbD k ^^ (s.reg y).getLsbD k)) ∧
      (∀ r, r ≠ x → t.reg r = s.reg r) ∧ SameBut [.regs] s t)

/-- 8XY4 writes the sum modulo 256 to V[X] and the carry of the exact sum to VF, the sum last: with X = F VF holds the
sum (42_alu.md R144). -/
def Obligations.AddSetsCarry : Prop :=
  ∀ (x y : RegIdx) (s : State), Encodes (packXYN 0x8 x y 0x4) (.addReg x y) ∧
    ∃ t, exec (.addReg x y) s = .next t ∧
      (t.reg x).toNat = ((s.reg x).toNat + (s.reg y).toNat) % 256 ∧
      (x ≠ vF → t.reg vF = if (s.reg x).toNat + (s.reg y).toNat > 255 then 1 else 0) ∧
      (∀ r, r ≠ x → r ≠ vF → t.reg r = s.reg r) ∧ SameBut [.regs] s t

/-- 8XY5 and 8XY7 write the no-borrow flag to VF, then the difference modulo 256 of the registers as they then are to
V[X] (42_alu.md R145, R147). That a VF operand is read after the flag is written is the spec's decision D2 (log 12). -/
def Obligations.SubtractSetsNoBorrow : Prop :=
  ∀ (x y : RegIdx) (s : State),
    (Encodes (packXYN 0x8 x y 0x5) (.subReg x y) ∧ ∃ t, exec (.subReg x y) s = .next t ∧
      ∃ (f : Byte) (v : RegIdx → Byte), f = (if (s.reg y).toNat ≤ (s.reg x).toNat then 1 else 0) ∧
        (∀ r, v r = if r = vF then f else s.reg r) ∧
        (t.reg x).toNat = ((v x).toNat + 256 - (v y).toNat) % 256 ∧ (x ≠ vF → t.reg vF = f) ∧
        (∀ r, r ≠ x → r ≠ vF → t.reg r = s.reg r) ∧ SameBut [.regs] s t) ∧
    (Encodes (packXYN 0x8 x y 0x7) (.subnReg x y) ∧ ∃ t, exec (.subnReg x y) s = .next t ∧
      ∃ (f : Byte) (v : RegIdx → Byte), f = (if (s.reg x).toNat ≤ (s.reg y).toNat then 1 else 0) ∧
        (∀ r, v r = if r = vF then f else s.reg r) ∧
        (t.reg x).toNat = ((v y).toNat + 256 - (v x).toNat) % 256 ∧ (x ≠ vF → t.reg vF = f) ∧
        (∀ r, r ≠ x → r ≠ vF → t.reg r = s.reg r) ∧ SameBut [.regs] s t)

/-- 8XY6 and 8XYE write the bit shifted out to VF, then V[X] as it then is shifted by one to V[X]; V[Y] is not read, for
any Y (42_alu.md R146, R148). That V[X] = VF is read after the flag is written is the spec's decision D2 (log 12): the
result is then 0x00 for a right shift, and 0x02 or 0x00 for a left shift. -/
def Obligations.ShiftsByOneBit : Prop :=
  ∀ (x y : RegIdx) (s : State),
    (Encodes (packXYN 0x8 x y 0x6) (.shr x y) ∧ ∃ t, (∀ y', exec (.shr x y') s = .next t) ∧
      (x ≠ vF → (t.reg x).toNat = (s.reg x).toNat / 2 ∧ (t.reg vF).toNat = (s.reg x).toNat % 2) ∧
      (x = vF → t.reg vF = 0) ∧
      (∀ r, r ≠ x → r ≠ vF → t.reg r = s.reg r) ∧ SameBut [.regs] s t) ∧
    (Encodes (packXYN 0x8 x y 0xE) (.shl x y) ∧ ∃ t, (∀ y', exec (.shl x y') s = .next t) ∧
      (x ≠ vF → (t.reg x).toNat = 2 * (s.reg x).toNat % 256 ∧ (t.reg vF).toNat = (s.reg x).toNat / 128) ∧
      (x = vF → t.reg vF = if 0x80 ≤ (s.reg vF).toNat then 2 else 0) ∧
      (∀ r, r ≠ x → r ≠ vF → t.reg r = s.reg r) ∧ SameBut [.regs] s t)

/-! ### Units 0xA to 0xC -/

/-- ANNN sets I to NNN and FX29 to V[X] × 5, unmasked; nothing else changes (43_index_jump_rand.md R161, 46_misc_f.md
R196). -/
def Obligations.IndexLoads : Prop :=
  (∀ (nnn : BitVec 12) (s : State), Encodes (packNNN 0xA nnn) (.ldI nnn) ∧
    ∃ t, exec (.ldI nnn) s = .next t ∧ t.idx.toNat = nnn.toNat ∧ SameBut [.idx] s t) ∧
  (∀ (x : RegIdx) (s : State), Encodes (packXNN 0xF x 0x29) (.ldFont x) ∧
    ∃ t, exec (.ldFont x) s = .next t ∧ t.idx.toNat = (s.reg x).toNat * 5 ∧ SameBut [.idx] s t)

/-- FX1E adds V[X] to I modulo 65536, VF untouched; a sum of 4096 or more raises nothing (46_misc_f.md R195; the spec's
decision D8, log 26). -/
def Obligations.IndexAddWrapsAtSixteenBits : Prop :=
  ∀ (x : RegIdx) (s : State), Encodes (packXNN 0xF x 0x1E) (.addIVx x) ∧
    ∃ t, exec (.addIVx x) s = .next t ∧ t.idx.toNat = (s.idx.toNat + (s.reg x).toNat) % 65536 ∧ SameBut [.idx] s t

/-- BNNN sets PC to the exact sum of NNN and V0 (43_index_jump_rand.md R162). -/
def Obligations.OffsetJumpAddsV0 : Prop :=
  ∀ (nnn : BitVec 12) (s : State), Encodes (packNNN 0xB nnn) (.jpV0 nnn) ∧
    ∃ t, exec (.jpV0 nnn) s = .next t ∧ t.pc.toNat = nnn.toNat + (s.reg 0).toNat ∧ SameBut [.pc] s t

/-- CXNN writes the drawn byte AND NN to V[X] and uses up one draw, whatever byte is drawn (43_index_jump_rand.md R163;
the free draw is the spec's decision D18, log 8). -/
def Obligations.RandomByteIsMasked : Prop :=
  ∀ (x : RegIdx) (nn : Byte) (s : State), Encodes (packXNN 0xC x nn) (.rnd x nn) ∧
    ∃ t, exec (.rnd x nn) s = .next t ∧
      (∀ k, (t.reg x).getLsbD k = ((Config.randomByte s.draws).getLsbD k && nn.getLsbD k)) ∧
      t.draws = s.draws + 1 ∧ (∀ r, r ≠ x → t.reg r = s.reg r) ∧ SameBut [.regs, .draws] s t

/-! ### Unit 0xD -/

/-- DXYN whose sprite bytes exist inverts exactly the displayed pixels under the sprite's 1 bits, the origin wrapped and
the sprite clipped, and sets VF to 1 when one of them was on and to 0 when none was; nothing else changes (44_draw.md
R170). That clipped rows are read too is the spec's decision D25 (log 25). -/
def Obligations.DrawInvertsTheSpritePixels : Prop :=
  ∀ (x y : RegIdx) (n : Nat) (s : State), n ≤ 15 →
    Encodes (packXYN 0xD x y (BitVec.ofNat 4 n)) (.drw x y n) ∧
    (n = 0 ∨ s.indexAddr + n ≤ 4096 →
      ∃ t, exec (.drw x y n) s = .next t ∧
        (∀ px py, t.pixel px py = (s.pixel px py ^^ s.spriteBit x y n px py)) ∧
        (t.reg vF = 1 ∨ t.reg vF = 0) ∧
        (t.reg vF = 1 ↔ ∃ px py, s.spriteBit x y n px py = true ∧ s.pixel px py = true) ∧
        (∀ r, r ≠ vF → t.reg r = s.reg r) ∧ SameBut [.regs, .disp] s t)

/-- Drawing a sprite twice at one place restores the display; if its pixels were all off, the first draw sets VF to 0
and the second, when the sprite shows a pixel, to 1 (44_draw.md R170). X and Y are not VF, which the first draw writes. -/
def Obligations.DrawTwiceRestoresTheDisplay : Prop :=
  ∀ (x y : RegIdx) (n : Nat) (s : State), n ≤ 15 → x ≠ vF → y ≠ vF → (n = 0 ∨ s.indexAddr + n ≤ 4096) →
    ∃ t u, exec (.drw x y n) s = .next t ∧ exec (.drw x y n) t = .next u ∧
      (∀ px py, u.pixel px py = s.pixel px py) ∧
      ((∃ px py, s.spriteBit x y n px py = true) →
        (∀ px py, s.spriteBit x y n px py = true → s.pixel px py = false) → t.reg vF = 0 ∧ u.reg vF = 1)

/-! ### Unit 0xE -/

/-- EX9E and EXA1 with V[X] a key index skip when that key is down, up, and change nothing else (45_keypad.md R180,
R181). -/
def Obligations.KeySkips : Prop :=
  ∀ (x : RegIdx) (k : Fin 16) (s : State), (s.reg x).toNat = k.val →
    (Encodes (packXNN 0xE x 0x9E) (.skp x) ∧ ∃ t, exec (.skp x) s = .next t ∧
      t.pc = (if s.key k = true then s.pc + 2 else s.pc) ∧ SameBut [.pc] s t) ∧
    (Encodes (packXNN 0xE x 0xA1) (.sknp x) ∧ ∃ t, exec (.sknp x) s = .next t ∧
      t.pc = (if s.key k = true then s.pc else s.pc + 2) ∧ SameBut [.pc] s t)

/-- EX9E and EXA1 with V[X] of 16 or more raise nothing and skip as one free Boolean says, which they use up: the two
skip on opposite values of it (45_keypad.md R182; the spec's decision D17, log 9). -/
def Obligations.KeySkipsOffTheKeypadAreFree : Prop :=
  ∀ (x : RegIdx) (s : State), 16 ≤ (s.reg x).toNat →
    (∃ t, exec (.skp x) s = .next t ∧ t.pc = (if Config.keyTest s.draws = true then s.pc + 2 else s.pc) ∧
      t.draws = s.draws + 1 ∧ SameBut [.pc, .draws] s t) ∧
    (∃ t, exec (.sknp x) s = .next t ∧ t.pc = (if Config.keyTest s.draws = true then s.pc else s.pc + 2) ∧
      t.draws = s.draws + 1 ∧ SameBut [.pc, .draws] s t)

/-! ### Unit 0xF -/

/-- FX07 reads DT into V[X]; FX15 and FX18 set DT and ST to V[X], the sound then being on exactly when V[X] ≠ 0; nothing
else changes (46_misc_f.md R190, R193, R194). -/
def Obligations.TimersAreReadAndSet : Prop :=
  ∀ (x : RegIdx) (s : State),
    (Encodes (packXNN 0xF x 0x07) (.ldVxDt x) ∧ ∃ t, exec (.ldVxDt x) s = .next t ∧ t.reg x = s.dt ∧
      (∀ r, r ≠ x → t.reg r = s.reg r) ∧ SameBut [.regs] s t) ∧
    (Encodes (packXNN 0xF x 0x15) (.ldDtVx x) ∧ ∃ t, exec (.ldDtVx x) s = .next t ∧ t.dt = s.reg x ∧
      SameBut [.dt] s t) ∧
    (Encodes (packXNN 0xF x 0x18) (.ldStVx x) ∧ ∃ t, exec (.ldStVx x) s = .next t ∧ t.st = s.reg x ∧
      (t.soundOn = true ↔ s.reg x ≠ 0) ∧ SameBut [.st] s t)

/-- FX0A enters AwaitingKey with kw_x = X and the keypad sampled; no general register changes and PC stays a + 2
(46_misc_f.md R191; the sample is the spec's decision D14, log 23). -/
def Obligations.KeyWaitBegins : Prop :=
  ∀ (x : RegIdx) (s : State), Encodes (packXNN 0xF x 0x0A) (.ldVxKey x) ∧
    ∃ t, exec (.ldVxKey x) s = .next t ∧ t.execState = .awaitingKey ∧ t.kwX = x ∧
      (t.kwPrevAny = true ↔ ∃ k, s.key k = true) ∧ SameBut [.execState, .keyWait] s t

/-- FX33 stores the hundreds, tens and ones of V[X] at I, I + 1, I + 2, and no other byte changes; when one of the three
addresses does not exist it halts before any byte is written (46_misc_f.md R197). That no byte changes at the halt is the
spec's decision D7 (00_scope.md R16, 20_memory.md R68; log 14). -/
def Obligations.DigitsAreStored : Prop :=
  ∀ (x : RegIdx) (s : State), Encodes (packXNN 0xF x 0x33) (.ldBcd x) ∧
    (MemoryOk s → s.indexAddr + 3 ≤ 4096 → ∃ t, exec (.ldBcd x) s = .next t ∧
      (t.readByte s.indexAddr).toNat = (s.reg x).toNat / 100 ∧
      (t.readByte (s.indexAddr + 1)).toNat = (s.reg x).toNat / 10 % 10 ∧
      (t.readByte (s.indexAddr + 2)).toNat = (s.reg x).toNat % 10 ∧
      (∀ a, a < s.indexAddr ∨ s.indexAddr + 3 ≤ a → t.readByte a = s.readByte a) ∧ SameBut [.mem] s t) ∧
    (4096 < s.indexAddr + 3 → ∃ t, exec (.ldBcd x) s = .next t ∧ t.execState = .halted ∧
      t.haltCause = .outOfRange ∧ ∀ a, t.readByte a = s.readByte a)

/-- FX55 stores V0 to V[X] from I up, and no other byte changes, I included; when an address does not exist it halts
before any byte is written (46_misc_f.md R198). That no byte changes at the halt is the spec's decision D7 (00_scope.md
R16, 20_memory.md R68; log 14). -/
def Obligations.RegistersAreStored : Prop :=
  ∀ (x : RegIdx) (s : State), Encodes (packXNN 0xF x 0x55) (.storeRegs x) ∧
    (MemoryOk s → s.indexAddr + (x.val + 1) ≤ 4096 → ∃ t, exec (.storeRegs x) s = .next t ∧
      (∀ r : RegIdx, r ≤ x → t.readByte (s.indexAddr + r.val) = s.reg r) ∧
      (∀ a, a < s.indexAddr ∨ s.indexAddr + (x.val + 1) ≤ a → t.readByte a = s.readByte a) ∧ SameBut [.mem] s t) ∧
    (4096 < s.indexAddr + (x.val + 1) → ∃ t, exec (.storeRegs x) s = .next t ∧ t.execState = .halted ∧
      t.haltCause = .outOfRange ∧ ∀ a, t.readByte a = s.readByte a)

/-- FX65 loads V0 to V[X] from I up; registers above X, memory and I do not change; when an address does not exist it
halts before any register is written (46_misc_f.md R199). That no register changes at the halt is the spec's decision D7
(00_scope.md R16, 20_memory.md R69; log 14). -/
def Obligations.RegistersAreLoaded : Prop :=
  ∀ (x : RegIdx) (s : State), Encodes (packXNN 0xF x 0x65) (.loadRegs x) ∧
    (s.indexAddr + (x.val + 1) ≤ 4096 → ∃ t, exec (.loadRegs x) s = .next t ∧
      (∀ r : RegIdx, r ≤ x → t.reg r = s.readByte (s.indexAddr + r.val)) ∧
      (∀ r : RegIdx, x < r → t.reg r = s.reg r) ∧ SameBut [.regs] s t) ∧
    (4096 < s.indexAddr + (x.val + 1) → ∃ t, exec (.loadRegs x) s = .next t ∧ t.execState = .halted ∧
      t.haltCause = .outOfRange ∧ ∀ r, t.reg r = s.reg r)

/-- A word stored by FX55 where PC points is the instruction the next STEP runs: fetch sees data writes (20_memory.md
R78). -/
def Obligations.StoredCodeIsWhatRunsNext : Prop :=
  ∀ (x : RegIdx) (i : Instr) (s : State), MemoryOk s → RunsNext s → 1 ≤ x.val → s.pc = s.idx →
    s.indexAddr + (x.val + 1) ≤ 4096 → decodeWord (Word.ofBytes (s.reg 0) (s.reg 1)) = .ok i →
    ∃ t, exec (.storeRegs x) s = .next t ∧ step t = exec i (t.taken.setPc (t.pc + 2))

/-! ### Errors -/

/-- DXYN, FX33, FX55 and FX65 whose byte range does not exist halt with OutOfRangeAccess at the lowest bad address and
change nothing else: PC stays a + 2 (60_exceptions.md R213, 20_memory.md R67). Nothing partial, PC and the report are the
spec's decisions D7, D9, D12, D25 (log 14, log 25). -/
def Obligations.OutOfRangeAccessHalts : Prop :=
  ∀ (x y : RegIdx) (n : Nat) (s : State),
    (n ≠ 0 → 4096 < s.indexAddr + n → ∃ t, exec (.drw x y n) s = .next t ∧
      HaltedBy .outOfRange (s.pc - 2) (max s.indexAddr 4096) s t) ∧
    (4096 < s.indexAddr + 3 → ∃ t, exec (.ldBcd x) s = .next t ∧
      HaltedBy .outOfRange (s.pc - 2) (max s.indexAddr 4096) s t) ∧
    (4096 < s.indexAddr + (x.val + 1) →
      (∃ t, exec (.storeRegs x) s = .next t ∧ HaltedBy .outOfRange (s.pc - 2) (max s.indexAddr 4096) s t) ∧
      (∃ t, exec (.loadRegs x) s = .next t ∧ HaltedBy .outOfRange (s.pc - 2) (max s.indexAddr 4096) s t))

/-- A STEP in Running whose fetch is out of range halts, PC still at the fetch address, and reports the lowest address
out of range (30_encoding.md R95, 60_exceptions.md R213; the spec's decisions D9, D12, log 14). -/
def Obligations.FetchOutOfRangeHalts : Prop :=
  ∀ s : State, RunsNext s → 4096 < s.pc.toNat + 2 →
    ∃ t, step s = .next t ∧ HaltedBy .outOfRange s.pc (max s.pc.toNat 4096) s.taken t

/-- A STEP in Running whose word is no instruction reports it with its address and does nothing else but advance PC
(60_exceptions.md R215). That the report carries the word and its address is the spec's decision D12 (R212), and the list
it goes into is the model's (log 20). -/
def Obligations.InvalidWordIsAReportedNoOp : Prop :=
  ∀ s : State, RunsNext s → FetchOk s → decodeWord s.fetchedWord = .error (.invalidOpcode s.fetchedWord) →
    ∃ t, step s = .next t ∧ t.pc = s.pc + 2 ∧ t.reports = .invalidOpcode s.fetchedWord s.pc :: s.reports ∧
      SameBut [.pc, .reports] s.taken t

/-- When a STEP in Running ends in Halted it left one HaltReport with the instruction's address and a cause, and
changed nothing else but PC, which is a + 2, or a when the fetch itself failed (60_exceptions.md R213, R216; the spec's
decisions D7, D9, D12, log 14). -/
def Obligations.FatalErrorsArePrecise : Prop :=
  ∀ s t : State, RunsNext s → step s = .next t → t.execState = .halted →
    t.haltCause ≠ .none ∧ (∃ d, t.reports = .halt t.haltCause s.pc d :: s.reports) ∧
      t.pc = (if s.pc.toNat + 2 ≤ 4096 then s.pc + 2 else s.pc) ∧
      SameBut [.pc, .execState, .haltCause, .reports] s.taken t

/-! ### The machine -/

/-- When the two bytes at PC decode to an instruction, a STEP in Running is `exec` of it with PC past them
(30_encoding.md R95). -/
def Obligations.StepRunsTheDecodedInstruction : Prop :=
  ∀ (i : Instr) (s : State), RunsNext s → FetchOk s → decodeWord s.fetchedWord = .ok i →
    step s = exec i (s.taken.setPc (s.pc + 2))

/-- Every instruction answers a next state in every state: none stops the machine (60_exceptions.md R221). -/
def Obligations.EveryInstructionAnswersNext : Prop :=
  ∀ (i : Instr) (s : State), ∃ t, exec i s = .next t

/-- An instruction changes only the pieces of state its rule lists, or halts with one fatal error and changes nothing
else (00_scope.md R17). What a halt leaves is 00_scope.md R16 and 60_exceptions.md R213, the spec's decisions D7, D9, D12
(log 14); the writes include the count of draws, which is the model's own (log 11). -/
def Obligations.InstructionsWriteOnlyWhatTheyList : Prop :=
  ∀ (i : Instr) (s t : State), exec i s = .next t →
    SameBut i.writes s t ∨ ∃ e d, e ≠ .none ∧ HaltedBy e (s.pc - 2) d s t

/-- A general register changes only in the instructions that list it as written (10_state.md R31, R33). -/
def Obligations.OnlyListedRegistersChange : Prop :=
  ∀ (i : Instr) (r : RegIdx) (s t : State), exec i s = .next t → i.writesReg r = false → t.reg r = s.reg r

/-- A step changes a pixel only by INIT, 00E0 or DXYN (10_state.md R47). -/
def Obligations.OnlyClearAndDrawChangeTheDisplay : Prop :=
  ∀ (s t : State) (x : Fin 64) (y : Fin 32), step s = .next t → t.pixel x y ≠ s.pixel x y →
    (∃ rom, s.pending = .init rom) ∨
    (RunsNext s ∧ FetchOk s ∧
      (decodeWord s.fetchedWord = .ok .cls ∨ ∃ p q n, decodeWord s.fetchedWord = .ok (.drw p q n)))

/-- A step changes a byte of memory only by INIT, FX33 within its three bytes, or FX55 within its X + 1 bytes
(20_memory.md R63). -/
def Obligations.OnlyStoresChangeMemory : Prop :=
  ∀ (s t : State) (a : Nat), step s = .next t → t.readByte a ≠ s.readByte a →
    (∃ rom, s.pending = .init rom) ∨
    (RunsNext s ∧ FetchOk s ∧ s.indexAddr ≤ a ∧
      ((∃ x, decodeWord s.fetchedWord = .ok (.ldBcd x) ∧ a < s.indexAddr + 3) ∨
       (∃ x : RegIdx, decodeWord s.fetchedWord = .ok (.storeRegs x) ∧ a < s.indexAddr + (x.val + 1))))

/-- A step changes SP or a stack entry only by INIT, 2NNN or 00EE (10_state.md R40; SP is the spec's decision D4). -/
def Obligations.OnlyCallAndReturnMoveTheStack : Prop :=
  ∀ s t : State, step s = .next t → ¬(t.sp = s.sp ∧ t.stack = s.stack) →
    (∃ rom, s.pending = .init rom) ∨
    (RunsNext s ∧ FetchOk s ∧
      (decodeWord s.fetchedWord = .ok .ret ∨ ∃ nnn, decodeWord s.fetchedWord = .ok (.call nnn)))

/-- The key levels influence no instruction but EX9E, EXA1 and FX0A: with other levels every other instruction does the
same (10_state.md R48). -/
def Obligations.KeypadIsReadByKeyInstructionsOnly : Prop :=
  ∀ (i : Instr) (levels : Keypad) (s : State), i.readsKeypad = false →
    exec i (s.setKeys levels) = Result.withKeys levels (exec i s)

/-- exec_state moves only as the table of transitions says, for every command, from every state and from where no machine
exists (60_exceptions.md R224; TICK, STEP and PAUSE_TOGGLE outside Running and QUIT are the spec's decisions D20 to D23,
log 22, and INIT after a LoadError is D26; QUIT and the keys where no machine exists are the model's choice, log 19). -/
def Obligations.ExecStateMovesByTheTable : Prop :=
  ∀ s t : State, step s = .next t → Transition s.resumeState s.pending s.phase t.phase

/-- A step enters AwaitingKey from Running only by FX0A, whose X it keeps in kw_x (60_exceptions.md R222, R224). -/
def Obligations.OnlyKeyWaitSuspends : Prop :=
  ∀ s t : State, step s = .next t → s.execState = .running → t.execState = .awaitingKey →
    RunsNext s ∧ FetchOk s ∧ ∃ x, decodeWord s.fetchedWord = .ok (.ldVxKey x) ∧ t.kwX = x

/-- In Halted every command but INIT leaves the machine Halted and changes only the timers (TICK) and the key levels
(60_exceptions.md R214; the spec's decisions D20, D21, log 22). -/
def Obligations.HaltedIsTerminal : Prop :=
  ∀ s : State, s.Exists → s.execState = .halted → (∀ rom, s.pending ≠ .init rom) →
    ∃ t, step s = .next t ∧ t.execState = .halted ∧ SameBut [.dt, .st, .keys] s.taken t

/-! ### Commands -/

/-- STEP in Paused and in Halted has no effect (60_exceptions.md R225; the spec's decision D21, log 22). -/
def Obligations.StepInPausedOrHaltedDoesNothing : Prop :=
  ∀ s : State, s.Exists → s.pending = .step → (s.execState = .paused ∨ s.execState = .halted) → step s = .next s.taken

/-- PAUSE_TOGGLE pauses Running and AwaitingKey, remembering which, resumes from Paused to what it remembered, and has
no effect in Halted; nothing else changes (60_exceptions.md R227; the spec's decision D22, log 22). -/
def Obligations.PauseTogglesAndResumes : Prop :=
  ∀ s : State, s.Exists → s.pending = .pauseToggle → ∃ t, step s = .next t ∧
    (s.execState = .running → t.execState = .paused ∧ t.resumeState = .running) ∧
    (s.execState = .awaitingKey → t.execState = .paused ∧ t.resumeState = .awaitingKey) ∧
    (s.execState = .paused → t.execState = s.resumeState.toExec ∧ t.resumeState = s.resumeState) ∧
    (s.execState = .halted → t.execState = .halted ∧ t.resumeState = s.resumeState) ∧
    SameBut [.execState, .resumeState] s.taken t

/-- TICK lowers each timer by one unless it is 0, in every execution state, and changes nothing else; SOUND_ON is then
ST ≠ 0 (60_exceptions.md R229, R236; TICK in every state is the spec's decision D20, log 22). -/
def Obligations.TickCountsDown : Prop :=
  ∀ s : State, s.Exists → s.pending = .tick → ∃ t, step s = .next t ∧
    t.dt.toNat = s.dt.toNat - 1 ∧ t.st.toNat = s.st.toNat - 1 ∧ (t.soundOn = true ↔ t.st ≠ 0) ∧
    SameBut [.dt, .st] s.taken t

/-- n TICKs in a row lower each timer by n, clamped at 0: from n > 0 exactly n bring it to 0, where it stays
(60_exceptions.md R230, 10_state.md R45). -/
def Obligations.TimersReachZeroInAsManyTicks : Prop :=
  ∀ (n : Nat) (rest : List Command) (s : State), s.Exists → s.commands = List.replicate n .tick ++ rest →
    ∃ t : State, Host.Core.run Sys2Proof.core n s = .next t ∧ t.dt.toNat = s.dt.toNat - n ∧
      t.st.toNat = s.st.toNat - n ∧ t.commands = rest ∧ SameBut [.dt, .st, .commands] s t

/-- A STEP of the wait that sees some key down after a sample with none writes the index of a key that is down to
V[kw_x] and returns to Running; PC and memory do not change and no instruction runs (60_exceptions.md R226; the spec's
decisions D14, D15, D16, log 10, log 23). -/
def Obligations.WaitCapturesAKeyThatIsDown : Prop :=
  ∀ s : State, s.Exists → s.pending = .step → s.execState = .awaitingKey → s.kwPrevAny = false → (∃ k, s.key k = true) →
    ∃ (t : State) (k : Fin 16), step s = .next t ∧ s.key k = true ∧ (t.reg s.kwX).toNat = k.val ∧
      t.execState = .running ∧ (∀ r, r ≠ s.kwX → t.reg r = s.reg r) ∧
      SameBut [.regs, .execState, .draws] s.taken t

/-- A STEP of the wait that sees no transition keeps waiting and records whether a key is down; nothing else changes
(60_exceptions.md R226; the spec's decision D14, log 23). -/
def Obligations.WaitGoesOnWithoutATransition : Prop :=
  ∀ s : State, s.Exists → s.pending = .step → s.execState = .awaitingKey → (s.kwPrevAny = true ∨ ∀ k, s.key k = false) →
    ∃ t, step s = .next t ∧ t.kwX = s.kwX ∧ (t.kwPrevAny = true ↔ ∃ k, s.key k = true) ∧
      SameBut [.keyWait] s.taken t

/-- INIT with at most 3584 bytes makes a new machine from any state, and where none exists: every register, timer and
stack entry zero, PC at 0x200, the display off, Running, and memory FONT, zeros and the ROM at 0x200
(70_reset_and_hazards.md R250, R252, R254). I, the stack entries, the display and the execution state are the spec's
decision D19 (log 5). That the parameters, the commands to come, the key levels, the count of draws and the reports stay
is the model's choice (DESIGN CHOICE, log 4, log 6, log 7, log 11, log 20), and so is the zero an
address of 4096 or more, which no instruction reaches, reads as (DESIGN CHOICE, log 1). -/
def Obligations.InitMakesANewMachine : Prop :=
  ∀ (rom : List Byte) (s : State), s.pending = .init rom → rom.length ≤ 3584 →
    ∃ t, step s = .next t ∧ t.initResult = .ok ∧ (∀ r, t.reg r = 0) ∧ t.pc = 0x200 ∧ t.idx = 0 ∧ t.sp = 0 ∧
      t.stack = List.replicate s.params.stackDepth 0 ∧ t.dt = 0 ∧ t.st = 0 ∧ (∀ x y, t.pixel x y = false) ∧
      t.execState = .running ∧ t.resumeState = .running ∧ t.kwX = 0 ∧ t.kwPrevAny = false ∧ t.haltCause = .none ∧
      (∀ j, j < rom.length → rom[j]? = some (t.readByte (0x200 + j))) ∧
      (∀ a, a < 0x050 → t.readByte a = s.params.font.getD a 0) ∧
      (∀ a, 0x050 ≤ a → a < 0x200 ∨ 0x200 + rom.length ≤ a → t.readByte a = 0) ∧
      Part.same s.taken t .params ∧ Part.same s.taken t .keys ∧ Part.same s.taken t .reports ∧
      Part.same s.taken t .commands ∧ Part.same s.taken t .draws

/-- INIT with more than 3584 bytes gives LoadError with the ROM's length, from any state, and leaves no machine; the host's
next INIT with at most 3584 bytes makes one that is Running (70_reset_and_hazards.md R251, R252, 60_exceptions.md R224;
the spec's decision D26). -/
def Obligations.OversizedRomIsALoadError : Prop :=
  ∀ (rom : List Byte) (s : State), s.pending = .init rom → 3584 < rom.length →
    ∃ t, step s = .next t ∧ t.initResult = .loadError rom.length ∧ t.phase = none ∧ t.commands = s.commands.tail ∧
      ∀ rom' : List Byte, rom'.length ≤ 3584 → t.pending = .init rom' →
        ∃ u, step t = .next u ∧ u.phase = some .running

/-- Where no machine exists STEP, TICK and PAUSE_TOGGLE have no meaning: they end the run by the fault of that name
(70_reset_and_hazards.md R251, 60_exceptions.md R240, the spec's decision D26; that the run ends there, and that QUIT and
the keys change no core state there either, is the model's choice, log 19). -/
def Obligations.OnlyInitMakesAMachine : Prop :=
  ∀ s : State, ¬s.Exists →
    (s.pending = .step ∨ s.pending = .tick ∨ s.pending = .pauseToggle → step s = .fault .noMachine) ∧
    (s.pending = .quit → step s = .next s.taken) ∧
    (∀ levels, s.pending = .keys levels → ∃ t, step s = .next t ∧ ¬t.Exists ∧ SameBut [.keys] s.taken t)

/-! ### Reset, memory, invariant -/

/-- After reset, for any STACK_DEPTH and FONT, registers, timers and SP are zero, PC is 0x200 and memory is FONT and
zeros (10_state.md R55); I zero, the display off and Running are the spec's decision D19 (log 5). That STACK_DEPTH at
`State.reset` is at most 65535 is the model's (DEDUCED, log 3), and so is what an address of 4096 or more, which no
instruction reaches, reads as (DESIGN CHOICE, log 1). -/
def Obligations.ResetClearsTheMachine : Prop :=
  ∀ p : Params, (∀ r, (State.resetWith p).reg r = 0) ∧ (State.resetWith p).pc = 0x200 ∧
    (State.resetWith p).sp = 0 ∧ (State.resetWith p).dt = 0 ∧ (State.resetWith p).st = 0 ∧
    (∀ a, (State.resetWith p).readByte a = if a < 0x050 then p.font.getD a 0 else 0) ∧
    (State.resetWith p).idx = 0 ∧ (∀ x y, (State.resetWith p).pixel x y = false) ∧
    (State.resetWith p).execState = .running ∧ (State.resetWith p).haltCause = .none ∧
    (State.resetWith p).Exists ∧
    State.reset = State.resetWith State.reset.params ∧ State.reset.params.Ok

/-- Memories in the model's canonical form that read the same everywhere are the same data. The form (a list with addresses
strictly rising, none equal to the background) is the model's choice, not the spec's (DESIGN CHOICE, log 1): the spec says
only that memory is 4096 bytes (20_memory.md R60, 10_state.md R46). -/
def Obligations.EqualMemoriesAreEqualData : Prop :=
  ∀ (font : List Byte) (m m' : Memory), Memory.wf font m = true → Memory.wf font m' = true →
    (∀ a, Memory.read font m a = Memory.read font m' a) → m = m'

/-- The machine after reset meets the invariant, for State.reset and for all parameters that meet `Params.Ok` (10_state.md
R55). `Params.Ok` bounds STACK_DEPTH by the spec's 12 (00_scope.md R9) and by 65535, which is the model's (DEDUCED, log 3);
the canonical form of memory is the model's too (DESIGN CHOICE, log 1). -/
def Obligations.ResetMeetsTheInvariant : Prop :=
  Inv State.reset ∧ ∀ p : Params, p.Ok → Inv (State.resetWith p)

/-- From every state that meets the invariant a step, whatever the host's command, gives a state that meets it: memory
canonical, STACK_DEPTH entries and 0 ≤ SP ≤ STACK_DEPTH (10_state.md R39, R40), PC never past 0x10FE, so no update of PC
wraps (R37), halt_cause NONE exactly outside Halted (R51). The canonical form of memory is the model's (DESIGN CHOICE, log
1), and so is the bound 65535 on STACK_DEPTH (DEDUCED, log 3), whose lower bound 12 is the spec's (00_scope.md R9). -/
def Obligations.StepKeepsTheInvariant : Prop :=
  ∀ s t : State, Inv s → step s = .next t → Inv t
end

