-- ==== Sys2Proof/Laws/Decode.lean ====
section
/-! SUPPORT. The fields of a packed word, byte by byte and nibble by nibble, and how masks act on packed words. -/

namespace Sys2Proof

/-! ### Halves of an append -/

theorem extract_high {m k : Nat} (a : BitVec m) (b : BitVec k) : (a ++ b).extractLsb' k m = a := by
  simp [BitVec.extractLsb'_append_eq_ite]

theorem extract_low {m k : Nat} (a : BitVec m) (b : BitVec k) : (a ++ b).extractLsb' 0 k = b := by
  apply BitVec.eq_of_getLsbD_eq
  intro i hi
  simp [BitVec.getLsbD_append, hi]

theorem append_halves {m k : Nat} (w : BitVec (m + k)) : w.extractLsb' k m ++ w.extractLsb' 0 k = w := by
  apply BitVec.eq_of_getLsbD_eq
  intro i hi
  rw [BitVec.getLsbD_append]
  by_cases h : i < k
  · simp [h]
  · simp [h, show k + (i - k) = i by omega, show i - k < m by omega]

@[simp] theorem Word.hi_ofBytes (a b : Byte) : (Word.ofBytes a b).hi = a := extract_high a b
@[simp] theorem Word.lo_ofBytes (a b : Byte) : (Word.ofBytes a b).lo = b := extract_low a b
@[simp] theorem Word.ofBytes_hi_lo (w : Word) : Word.ofBytes w.hi w.lo = w := append_halves (m := 8) (k := 8) w

@[simp] theorem toFin_regField (r : RegIdx) : (regField r).toFin = r := rfl
@[simp] theorem regField_toFin (b : BitVec 4) : regField b.toFin = b := rfl

/-! ### Nested extracts -/

theorem extract_of_low {n k : Nat} (w : BitVec n) (start len : Nat) (h : start + len ≤ k) :
    (w.extractLsb' 0 k).extractLsb' start len = w.extractLsb' start len := by
  apply BitVec.eq_of_getLsbD_eq
  intro i hi
  have : start + i < k := by omega
  simp [hi, this]

/-! ### Fields of packed words (30_encoding.md R91, R92) -/

theorem nField_eq (w : Word) : nField w = (nnField w).extractLsb' 0 4 := (extract_of_low w 0 4 (by decide)).symm

theorem nnField_eq (w : Word) : nnField w = (nnnField w).extractLsb' 0 8 := (extract_of_low w 0 8 (by decide)).symm

theorem yField_eq (w : Word) : yField w = ((nnField w).extractLsb' 4 4).toFin := by
  simp only [yField, nnField, extract_of_low w 4 4 (k := 8) (by decide)]

theorem xField_eq (w : Word) : xField w = ((nnnField w).extractLsb' 8 4).toFin := by
  simp only [xField, nnnField, extract_of_low w 8 4 (k := 12) (by decide)]

@[simp] theorem opField_packNNN (op : BitVec 4) (nnn : BitVec 12) : opField (packNNN op nnn) = op := extract_high op nnn
@[simp] theorem nnnField_packNNN (op : BitVec 4) (nnn : BitVec 12) : nnnField (packNNN op nnn) = nnn :=
  extract_low op nnn

@[simp] theorem opField_packXNN (op : BitVec 4) (x : RegIdx) (nn : Byte) : opField (packXNN op x nn) = op :=
  extract_high op (regField x ++ nn)
theorem nnnField_packXNN (op : BitVec 4) (x : RegIdx) (nn : Byte) : nnnField (packXNN op x nn) = regField x ++ nn :=
  extract_low op (regField x ++ nn)
@[simp] theorem xField_packXNN (op : BitVec 4) (x : RegIdx) (nn : Byte) : xField (packXNN op x nn) = x := by
  rw [xField_eq, nnnField_packXNN]
  exact congrArg BitVec.toFin (extract_high (regField x) nn)
@[simp] theorem nnField_packXNN (op : BitVec 4) (x : RegIdx) (nn : Byte) : nnField (packXNN op x nn) = nn := by
  rw [nnField_eq, nnnField_packXNN]
  exact extract_low (regField x) nn

@[simp] theorem opField_packXYN (op : BitVec 4) (x y : RegIdx) (n : BitVec 4) : opField (packXYN op x y n) = op :=
  extract_high op (regField x ++ (regField y ++ n))
theorem nnnField_packXYN (op : BitVec 4) (x y : RegIdx) (n : BitVec 4) :
    nnnField (packXYN op x y n) = regField x ++ (regField y ++ n) :=
  extract_low op (regField x ++ (regField y ++ n))
theorem nnField_packXYN (op : BitVec 4) (x y : RegIdx) (n : BitVec 4) :
    nnField (packXYN op x y n) = regField y ++ n := by
  rw [nnField_eq, nnnField_packXYN]
  exact extract_low (regField x) (regField y ++ n)
@[simp] theorem xField_packXYN (op : BitVec 4) (x y : RegIdx) (n : BitVec 4) : xField (packXYN op x y n) = x := by
  rw [xField_eq, nnnField_packXYN]
  exact congrArg BitVec.toFin (extract_high (regField x) (regField y ++ n))
@[simp] theorem yField_packXYN (op : BitVec 4) (x y : RegIdx) (n : BitVec 4) : yField (packXYN op x y n) = y := by
  rw [yField_eq, nnField_packXYN]
  exact congrArg BitVec.toFin (extract_high (regField y) n)
@[simp] theorem nField_packXYN (op : BitVec 4) (x y : RegIdx) (n : BitVec 4) : nField (packXYN op x y n) = n := by
  rw [nField_eq, nnField_packXYN]
  exact extract_low (regField y) n

/-! ### A word is its fields packed again (30_encoding.md R92) -/

theorem packNNN_fields (w : Word) : packNNN (opField w) (nnnField w) = w := append_halves (m := 4) (k := 12) w

theorem packXNN_fields (w : Word) : packXNN (opField w) (xField w) (nnField w) = w := by
  rw [packXNN, xField_eq, nnField_eq, regField_toFin, append_halves (m := 4) (k := 8) (nnnField w)]
  exact packNNN_fields w

theorem packXYN_fields (w : Word) : packXYN (opField w) (xField w) (yField w) (nField w) = w := by
  rw [packXYN, yField_eq w, nField_eq w]
  exact (congrArg (fun b => opField w ++ (regField (xField w) ++ b)) (append_halves (m := 4) (k := 4) (nnField w))).trans
    (packXNN_fields w)

/-! ### Masks -/

theorem append_and {m k : Nat} (a c : BitVec m) (b d : BitVec k) : (a ++ b) &&& (c ++ d) = (a &&& c) ++ (b &&& d) := by
  apply BitVec.eq_of_getLsbD_eq
  intro i hi
  by_cases h : i < k <;> simp [BitVec.getLsbD_append, h]

theorem and_nibble (a : BitVec 4) : a &&& 15#4 = a := by simpa using BitVec.and_allOnes (x := a)

theorem and_byte (a : Byte) : a &&& 255#8 = a := by simpa using BitVec.and_allOnes (x := a)

theorem packNNN_mask_op (op : BitVec 4) (nnn : BitVec 12) : packNNN op nnn &&& 0xF000 = packNNN op 0 :=
  (append_and op 0xF#4 nnn 0#12).trans (by simp [packNNN, and_nibble])

theorem packXNN_mask_op (op : BitVec 4) (x : RegIdx) (nn : Byte) : packXNN op x nn &&& 0xF000 = packNNN op 0 :=
  packNNN_mask_op op (regField x ++ nn)

theorem packXYN_mask_op (op : BitVec 4) (x y : RegIdx) (n : BitVec 4) : packXYN op x y n &&& 0xF000 = packNNN op 0 :=
  packNNN_mask_op op (regField x ++ (regField y ++ n))

theorem packXNN_mask_nn (op : BitVec 4) (x : RegIdx) (nn : Byte) : packXNN op x nn &&& 0xF0FF = packXNN op 0 nn := by
  refine (append_and op 0xF#4 (regField x ++ nn) (0#4 ++ 0xFF#8)).trans ?_
  rw [append_and]
  simp [packXNN, regField, and_nibble, and_byte]

theorem packXYN_mask_n (op : BitVec 4) (x y : RegIdx) (n : BitVec 4) :
    packXYN op x y n &&& 0xF00F = packXYN op 0 0 n := by
  refine (append_and op 0xF#4 (regField x ++ (regField y ++ n)) (0#4 ++ (0#4 ++ 0xF#4))).trans ?_
  rw [append_and, append_and]
  simp [packXYN, regField, and_nibble]

end Sys2Proof
end

