-- ==== Sys2Proof/Laws/State.lean ====
section
/-! SUPPORT. One lemma per field per update of State, and per way of reading State (`reg`, `readByte`, `pixel`, `key`):
no later proof unfolds a record update. -/

namespace Sys2Proof.Machine

/-! ### setReg -/

@[simp] theorem State.setReg_regs (s : State) (i : RegIdx) (v : Byte) : (s.setReg i v).regs = s.regs.set i v := rfl
@[simp] theorem State.setReg_pc (s : State) (i : RegIdx) (v : Byte) : (s.setReg i v).pc = s.pc := rfl
@[simp] theorem State.setReg_idx (s : State) (i : RegIdx) (v : Byte) : (s.setReg i v).idx = s.idx := rfl
@[simp] theorem State.setReg_sp (s : State) (i : RegIdx) (v : Byte) : (s.setReg i v).sp = s.sp := rfl
@[simp] theorem State.setReg_stack (s : State) (i : RegIdx) (v : Byte) : (s.setReg i v).stack = s.stack := rfl
@[simp] theorem State.setReg_dt (s : State) (i : RegIdx) (v : Byte) : (s.setReg i v).dt = s.dt := rfl
@[simp] theorem State.setReg_st (s : State) (i : RegIdx) (v : Byte) : (s.setReg i v).st = s.st := rfl
@[simp] theorem State.setReg_mem (s : State) (i : RegIdx) (v : Byte) : (s.setReg i v).mem = s.mem := rfl
@[simp] theorem State.setReg_disp (s : State) (i : RegIdx) (v : Byte) : (s.setReg i v).disp = s.disp := rfl
@[simp] theorem State.setReg_execState (s : State) (i : RegIdx) (v : Byte) : (s.setReg i v).execState = s.execState := rfl
@[simp] theorem State.setReg_resumeState (s : State) (i : RegIdx) (v : Byte) : (s.setReg i v).resumeState = s.resumeState := rfl
@[simp] theorem State.setReg_initResult (s : State) (i : RegIdx) (v : Byte) : (s.setReg i v).initResult = s.initResult := rfl
@[simp] theorem State.setReg_kwX (s : State) (i : RegIdx) (v : Byte) : (s.setReg i v).kwX = s.kwX := rfl
@[simp] theorem State.setReg_kwPrevAny (s : State) (i : RegIdx) (v : Byte) : (s.setReg i v).kwPrevAny = s.kwPrevAny := rfl
@[simp] theorem State.setReg_haltCause (s : State) (i : RegIdx) (v : Byte) : (s.setReg i v).haltCause = s.haltCause := rfl
@[simp] theorem State.setReg_keys (s : State) (i : RegIdx) (v : Byte) : (s.setReg i v).keys = s.keys := rfl
@[simp] theorem State.setReg_reports (s : State) (i : RegIdx) (v : Byte) : (s.setReg i v).reports = s.reports := rfl
@[simp] theorem State.setReg_params (s : State) (i : RegIdx) (v : Byte) : (s.setReg i v).params = s.params := rfl
@[simp] theorem State.setReg_commands (s : State) (i : RegIdx) (v : Byte) : (s.setReg i v).commands = s.commands := rfl
@[simp] theorem State.setReg_draws (s : State) (i : RegIdx) (v : Byte) : (s.setReg i v).draws = s.draws := rfl
@[simp] theorem State.setReg_readByte (s : State) (i : RegIdx) (v : Byte) (c : Nat) : (s.setReg i v).readByte c = s.readByte c := rfl
@[simp] theorem State.setReg_pixel (s : State) (i : RegIdx) (v : Byte) (x : Fin 64) (y : Fin 32) : (s.setReg i v).pixel x y = s.pixel x y := rfl
@[simp] theorem State.setReg_key (s : State) (i : RegIdx) (v : Byte) (k : Fin 16) : (s.setReg i v).key k = s.key k := rfl

/-! ### setPc -/

@[simp] theorem State.setPc_regs (s : State) (v : Word) : (s.setPc v).regs = s.regs := rfl
@[simp] theorem State.setPc_pc (s : State) (v : Word) : (s.setPc v).pc = v := rfl
@[simp] theorem State.setPc_idx (s : State) (v : Word) : (s.setPc v).idx = s.idx := rfl
@[simp] theorem State.setPc_sp (s : State) (v : Word) : (s.setPc v).sp = s.sp := rfl
@[simp] theorem State.setPc_stack (s : State) (v : Word) : (s.setPc v).stack = s.stack := rfl
@[simp] theorem State.setPc_dt (s : State) (v : Word) : (s.setPc v).dt = s.dt := rfl
@[simp] theorem State.setPc_st (s : State) (v : Word) : (s.setPc v).st = s.st := rfl
@[simp] theorem State.setPc_mem (s : State) (v : Word) : (s.setPc v).mem = s.mem := rfl
@[simp] theorem State.setPc_disp (s : State) (v : Word) : (s.setPc v).disp = s.disp := rfl
@[simp] theorem State.setPc_execState (s : State) (v : Word) : (s.setPc v).execState = s.execState := rfl
@[simp] theorem State.setPc_resumeState (s : State) (v : Word) : (s.setPc v).resumeState = s.resumeState := rfl
@[simp] theorem State.setPc_initResult (s : State) (v : Word) : (s.setPc v).initResult = s.initResult := rfl
@[simp] theorem State.setPc_kwX (s : State) (v : Word) : (s.setPc v).kwX = s.kwX := rfl
@[simp] theorem State.setPc_kwPrevAny (s : State) (v : Word) : (s.setPc v).kwPrevAny = s.kwPrevAny := rfl
@[simp] theorem State.setPc_haltCause (s : State) (v : Word) : (s.setPc v).haltCause = s.haltCause := rfl
@[simp] theorem State.setPc_keys (s : State) (v : Word) : (s.setPc v).keys = s.keys := rfl
@[simp] theorem State.setPc_reports (s : State) (v : Word) : (s.setPc v).reports = s.reports := rfl
@[simp] theorem State.setPc_params (s : State) (v : Word) : (s.setPc v).params = s.params := rfl
@[simp] theorem State.setPc_commands (s : State) (v : Word) : (s.setPc v).commands = s.commands := rfl
@[simp] theorem State.setPc_draws (s : State) (v : Word) : (s.setPc v).draws = s.draws := rfl
@[simp] theorem State.setPc_reg (s : State) (v : Word) (r : RegIdx) : (s.setPc v).reg r = s.reg r := rfl
@[simp] theorem State.setPc_readByte (s : State) (v : Word) (c : Nat) : (s.setPc v).readByte c = s.readByte c := rfl
@[simp] theorem State.setPc_pixel (s : State) (v : Word) (x : Fin 64) (y : Fin 32) : (s.setPc v).pixel x y = s.pixel x y := rfl
@[simp] theorem State.setPc_key (s : State) (v : Word) (k : Fin 16) : (s.setPc v).key k = s.key k := rfl

/-! ### setIdx -/

@[simp] theorem State.setIdx_regs (s : State) (v : Word) : (s.setIdx v).regs = s.regs := rfl
@[simp] theorem State.setIdx_pc (s : State) (v : Word) : (s.setIdx v).pc = s.pc := rfl
@[simp] theorem State.setIdx_idx (s : State) (v : Word) : (s.setIdx v).idx = v := rfl
@[simp] theorem State.setIdx_sp (s : State) (v : Word) : (s.setIdx v).sp = s.sp := rfl
@[simp] theorem State.setIdx_stack (s : State) (v : Word) : (s.setIdx v).stack = s.stack := rfl
@[simp] theorem State.setIdx_dt (s : State) (v : Word) : (s.setIdx v).dt = s.dt := rfl
@[simp] theorem State.setIdx_st (s : State) (v : Word) : (s.setIdx v).st = s.st := rfl
@[simp] theorem State.setIdx_mem (s : State) (v : Word) : (s.setIdx v).mem = s.mem := rfl
@[simp] theorem State.setIdx_disp (s : State) (v : Word) : (s.setIdx v).disp = s.disp := rfl
@[simp] theorem State.setIdx_execState (s : State) (v : Word) : (s.setIdx v).execState = s.execState := rfl
@[simp] theorem State.setIdx_resumeState (s : State) (v : Word) : (s.setIdx v).resumeState = s.resumeState := rfl
@[simp] theorem State.setIdx_initResult (s : State) (v : Word) : (s.setIdx v).initResult = s.initResult := rfl
@[simp] theorem State.setIdx_kwX (s : State) (v : Word) : (s.setIdx v).kwX = s.kwX := rfl
@[simp] theorem State.setIdx_kwPrevAny (s : State) (v : Word) : (s.setIdx v).kwPrevAny = s.kwPrevAny := rfl
@[simp] theorem State.setIdx_haltCause (s : State) (v : Word) : (s.setIdx v).haltCause = s.haltCause := rfl
@[simp] theorem State.setIdx_keys (s : State) (v : Word) : (s.setIdx v).keys = s.keys := rfl
@[simp] theorem State.setIdx_reports (s : State) (v : Word) : (s.setIdx v).reports = s.reports := rfl
@[simp] theorem State.setIdx_params (s : State) (v : Word) : (s.setIdx v).params = s.params := rfl
@[simp] theorem State.setIdx_commands (s : State) (v : Word) : (s.setIdx v).commands = s.commands := rfl
@[simp] theorem State.setIdx_draws (s : State) (v : Word) : (s.setIdx v).draws = s.draws := rfl
@[simp] theorem State.setIdx_reg (s : State) (v : Word) (r : RegIdx) : (s.setIdx v).reg r = s.reg r := rfl
@[simp] theorem State.setIdx_readByte (s : State) (v : Word) (c : Nat) : (s.setIdx v).readByte c = s.readByte c := rfl
@[simp] theorem State.setIdx_pixel (s : State) (v : Word) (x : Fin 64) (y : Fin 32) : (s.setIdx v).pixel x y = s.pixel x y := rfl
@[simp] theorem State.setIdx_key (s : State) (v : Word) (k : Fin 16) : (s.setIdx v).key k = s.key k := rfl

/-! ### setDt -/

@[simp] theorem State.setDt_regs (s : State) (v : Byte) : (s.setDt v).regs = s.regs := rfl
@[simp] theorem State.setDt_pc (s : State) (v : Byte) : (s.setDt v).pc = s.pc := rfl
@[simp] theorem State.setDt_idx (s : State) (v : Byte) : (s.setDt v).idx = s.idx := rfl
@[simp] theorem State.setDt_sp (s : State) (v : Byte) : (s.setDt v).sp = s.sp := rfl
@[simp] theorem State.setDt_stack (s : State) (v : Byte) : (s.setDt v).stack = s.stack := rfl
@[simp] theorem State.setDt_dt (s : State) (v : Byte) : (s.setDt v).dt = v := rfl
@[simp] theorem State.setDt_st (s : State) (v : Byte) : (s.setDt v).st = s.st := rfl
@[simp] theorem State.setDt_mem (s : State) (v : Byte) : (s.setDt v).mem = s.mem := rfl
@[simp] theorem State.setDt_disp (s : State) (v : Byte) : (s.setDt v).disp = s.disp := rfl
@[simp] theorem State.setDt_execState (s : State) (v : Byte) : (s.setDt v).execState = s.execState := rfl
@[simp] theorem State.setDt_resumeState (s : State) (v : Byte) : (s.setDt v).resumeState = s.resumeState := rfl
@[simp] theorem State.setDt_initResult (s : State) (v : Byte) : (s.setDt v).initResult = s.initResult := rfl
@[simp] theorem State.setDt_kwX (s : State) (v : Byte) : (s.setDt v).kwX = s.kwX := rfl
@[simp] theorem State.setDt_kwPrevAny (s : State) (v : Byte) : (s.setDt v).kwPrevAny = s.kwPrevAny := rfl
@[simp] theorem State.setDt_haltCause (s : State) (v : Byte) : (s.setDt v).haltCause = s.haltCause := rfl
@[simp] theorem State.setDt_keys (s : State) (v : Byte) : (s.setDt v).keys = s.keys := rfl
@[simp] theorem State.setDt_reports (s : State) (v : Byte) : (s.setDt v).reports = s.reports := rfl
@[simp] theorem State.setDt_params (s : State) (v : Byte) : (s.setDt v).params = s.params := rfl
@[simp] theorem State.setDt_commands (s : State) (v : Byte) : (s.setDt v).commands = s.commands := rfl
@[simp] theorem State.setDt_draws (s : State) (v : Byte) : (s.setDt v).draws = s.draws := rfl
@[simp] theorem State.setDt_reg (s : State) (v : Byte) (r : RegIdx) : (s.setDt v).reg r = s.reg r := rfl
@[simp] theorem State.setDt_readByte (s : State) (v : Byte) (c : Nat) : (s.setDt v).readByte c = s.readByte c := rfl
@[simp] theorem State.setDt_pixel (s : State) (v : Byte) (x : Fin 64) (y : Fin 32) : (s.setDt v).pixel x y = s.pixel x y := rfl
@[simp] theorem State.setDt_key (s : State) (v : Byte) (k : Fin 16) : (s.setDt v).key k = s.key k := rfl

/-! ### setSt -/

@[simp] theorem State.setSt_regs (s : State) (v : Byte) : (s.setSt v).regs = s.regs := rfl
@[simp] theorem State.setSt_pc (s : State) (v : Byte) : (s.setSt v).pc = s.pc := rfl
@[simp] theorem State.setSt_idx (s : State) (v : Byte) : (s.setSt v).idx = s.idx := rfl
@[simp] theorem State.setSt_sp (s : State) (v : Byte) : (s.setSt v).sp = s.sp := rfl
@[simp] theorem State.setSt_stack (s : State) (v : Byte) : (s.setSt v).stack = s.stack := rfl
@[simp] theorem State.setSt_dt (s : State) (v : Byte) : (s.setSt v).dt = s.dt := rfl
@[simp] theorem State.setSt_st (s : State) (v : Byte) : (s.setSt v).st = v := rfl
@[simp] theorem State.setSt_mem (s : State) (v : Byte) : (s.setSt v).mem = s.mem := rfl
@[simp] theorem State.setSt_disp (s : State) (v : Byte) : (s.setSt v).disp = s.disp := rfl
@[simp] theorem State.setSt_execState (s : State) (v : Byte) : (s.setSt v).execState = s.execState := rfl
@[simp] theorem State.setSt_resumeState (s : State) (v : Byte) : (s.setSt v).resumeState = s.resumeState := rfl
@[simp] theorem State.setSt_initResult (s : State) (v : Byte) : (s.setSt v).initResult = s.initResult := rfl
@[simp] theorem State.setSt_kwX (s : State) (v : Byte) : (s.setSt v).kwX = s.kwX := rfl
@[simp] theorem State.setSt_kwPrevAny (s : State) (v : Byte) : (s.setSt v).kwPrevAny = s.kwPrevAny := rfl
@[simp] theorem State.setSt_haltCause (s : State) (v : Byte) : (s.setSt v).haltCause = s.haltCause := rfl
@[simp] theorem State.setSt_keys (s : State) (v : Byte) : (s.setSt v).keys = s.keys := rfl
@[simp] theorem State.setSt_reports (s : State) (v : Byte) : (s.setSt v).reports = s.reports := rfl
@[simp] theorem State.setSt_params (s : State) (v : Byte) : (s.setSt v).params = s.params := rfl
@[simp] theorem State.setSt_commands (s : State) (v : Byte) : (s.setSt v).commands = s.commands := rfl
@[simp] theorem State.setSt_draws (s : State) (v : Byte) : (s.setSt v).draws = s.draws := rfl
@[simp] theorem State.setSt_reg (s : State) (v : Byte) (r : RegIdx) : (s.setSt v).reg r = s.reg r := rfl
@[simp] theorem State.setSt_readByte (s : State) (v : Byte) (c : Nat) : (s.setSt v).readByte c = s.readByte c := rfl
@[simp] theorem State.setSt_pixel (s : State) (v : Byte) (x : Fin 64) (y : Fin 32) : (s.setSt v).pixel x y = s.pixel x y := rfl
@[simp] theorem State.setSt_key (s : State) (v : Byte) (k : Fin 16) : (s.setSt v).key k = s.key k := rfl

/-! ### advance -/

@[simp] theorem State.advance_regs (s : State) : (s.advance).regs = s.regs := rfl
@[simp] theorem State.advance_pc (s : State) : (s.advance).pc = s.pc + 2 := rfl
@[simp] theorem State.advance_idx (s : State) : (s.advance).idx = s.idx := rfl
@[simp] theorem State.advance_sp (s : State) : (s.advance).sp = s.sp := rfl
@[simp] theorem State.advance_stack (s : State) : (s.advance).stack = s.stack := rfl
@[simp] theorem State.advance_dt (s : State) : (s.advance).dt = s.dt := rfl
@[simp] theorem State.advance_st (s : State) : (s.advance).st = s.st := rfl
@[simp] theorem State.advance_mem (s : State) : (s.advance).mem = s.mem := rfl
@[simp] theorem State.advance_disp (s : State) : (s.advance).disp = s.disp := rfl
@[simp] theorem State.advance_execState (s : State) : (s.advance).execState = s.execState := rfl
@[simp] theorem State.advance_resumeState (s : State) : (s.advance).resumeState = s.resumeState := rfl
@[simp] theorem State.advance_initResult (s : State) : (s.advance).initResult = s.initResult := rfl
@[simp] theorem State.advance_kwX (s : State) : (s.advance).kwX = s.kwX := rfl
@[simp] theorem State.advance_kwPrevAny (s : State) : (s.advance).kwPrevAny = s.kwPrevAny := rfl
@[simp] theorem State.advance_haltCause (s : State) : (s.advance).haltCause = s.haltCause := rfl
@[simp] theorem State.advance_keys (s : State) : (s.advance).keys = s.keys := rfl
@[simp] theorem State.advance_reports (s : State) : (s.advance).reports = s.reports := rfl
@[simp] theorem State.advance_params (s : State) : (s.advance).params = s.params := rfl
@[simp] theorem State.advance_commands (s : State) : (s.advance).commands = s.commands := rfl
@[simp] theorem State.advance_draws (s : State) : (s.advance).draws = s.draws := rfl
@[simp] theorem State.advance_reg (s : State) (r : RegIdx) : (s.advance).reg r = s.reg r := rfl
@[simp] theorem State.advance_readByte (s : State) (c : Nat) : (s.advance).readByte c = s.readByte c := rfl
@[simp] theorem State.advance_pixel (s : State) (x : Fin 64) (y : Fin 32) : (s.advance).pixel x y = s.pixel x y := rfl
@[simp] theorem State.advance_key (s : State) (k : Fin 16) : (s.advance).key k = s.key k := rfl

/-! ### writeBytes -/

@[simp] theorem State.writeBytes_regs (s : State) (a : Nat) (bs : List Byte) : (s.writeBytes a bs).regs = s.regs := rfl
@[simp] theorem State.writeBytes_pc (s : State) (a : Nat) (bs : List Byte) : (s.writeBytes a bs).pc = s.pc := rfl
@[simp] theorem State.writeBytes_idx (s : State) (a : Nat) (bs : List Byte) : (s.writeBytes a bs).idx = s.idx := rfl
@[simp] theorem State.writeBytes_sp (s : State) (a : Nat) (bs : List Byte) : (s.writeBytes a bs).sp = s.sp := rfl
@[simp] theorem State.writeBytes_stack (s : State) (a : Nat) (bs : List Byte) : (s.writeBytes a bs).stack = s.stack := rfl
@[simp] theorem State.writeBytes_dt (s : State) (a : Nat) (bs : List Byte) : (s.writeBytes a bs).dt = s.dt := rfl
@[simp] theorem State.writeBytes_st (s : State) (a : Nat) (bs : List Byte) : (s.writeBytes a bs).st = s.st := rfl
@[simp] theorem State.writeBytes_mem (s : State) (a : Nat) (bs : List Byte) : (s.writeBytes a bs).mem = Memory.writeBytes s.params.font s.mem a bs := rfl
@[simp] theorem State.writeBytes_disp (s : State) (a : Nat) (bs : List Byte) : (s.writeBytes a bs).disp = s.disp := rfl
@[simp] theorem State.writeBytes_execState (s : State) (a : Nat) (bs : List Byte) : (s.writeBytes a bs).execState = s.execState := rfl
@[simp] theorem State.writeBytes_resumeState (s : State) (a : Nat) (bs : List Byte) : (s.writeBytes a bs).resumeState = s.resumeState := rfl
@[simp] theorem State.writeBytes_initResult (s : State) (a : Nat) (bs : List Byte) : (s.writeBytes a bs).initResult = s.initResult := rfl
@[simp] theorem State.writeBytes_kwX (s : State) (a : Nat) (bs : List Byte) : (s.writeBytes a bs).kwX = s.kwX := rfl
@[simp] theorem State.writeBytes_kwPrevAny (s : State) (a : Nat) (bs : List Byte) : (s.writeBytes a bs).kwPrevAny = s.kwPrevAny := rfl
@[simp] theorem State.writeBytes_haltCause (s : State) (a : Nat) (bs : List Byte) : (s.writeBytes a bs).haltCause = s.haltCause := rfl
@[simp] theorem State.writeBytes_keys (s : State) (a : Nat) (bs : List Byte) : (s.writeBytes a bs).keys = s.keys := rfl
@[simp] theorem State.writeBytes_reports (s : State) (a : Nat) (bs : List Byte) : (s.writeBytes a bs).reports = s.reports := rfl
@[simp] theorem State.writeBytes_params (s : State) (a : Nat) (bs : List Byte) : (s.writeBytes a bs).params = s.params := rfl
@[simp] theorem State.writeBytes_commands (s : State) (a : Nat) (bs : List Byte) : (s.writeBytes a bs).commands = s.commands := rfl
@[simp] theorem State.writeBytes_draws (s : State) (a : Nat) (bs : List Byte) : (s.writeBytes a bs).draws = s.draws := rfl
@[simp] theorem State.writeBytes_reg (s : State) (a : Nat) (bs : List Byte) (r : RegIdx) : (s.writeBytes a bs).reg r = s.reg r := rfl
@[simp] theorem State.writeBytes_pixel (s : State) (a : Nat) (bs : List Byte) (x : Fin 64) (y : Fin 32) : (s.writeBytes a bs).pixel x y = s.pixel x y := rfl
@[simp] theorem State.writeBytes_key (s : State) (a : Nat) (bs : List Byte) (k : Fin 16) : (s.writeBytes a bs).key k = s.key k := rfl

/-! ### halt -/

@[simp] theorem State.halt_regs (s : State) (e : HaltCause) (a : Word) (d : Nat) : (s.halt e a d).regs = s.regs := rfl
@[simp] theorem State.halt_pc (s : State) (e : HaltCause) (a : Word) (d : Nat) : (s.halt e a d).pc = s.pc := rfl
@[simp] theorem State.halt_idx (s : State) (e : HaltCause) (a : Word) (d : Nat) : (s.halt e a d).idx = s.idx := rfl
@[simp] theorem State.halt_sp (s : State) (e : HaltCause) (a : Word) (d : Nat) : (s.halt e a d).sp = s.sp := rfl
@[simp] theorem State.halt_stack (s : State) (e : HaltCause) (a : Word) (d : Nat) : (s.halt e a d).stack = s.stack := rfl
@[simp] theorem State.halt_dt (s : State) (e : HaltCause) (a : Word) (d : Nat) : (s.halt e a d).dt = s.dt := rfl
@[simp] theorem State.halt_st (s : State) (e : HaltCause) (a : Word) (d : Nat) : (s.halt e a d).st = s.st := rfl
@[simp] theorem State.halt_mem (s : State) (e : HaltCause) (a : Word) (d : Nat) : (s.halt e a d).mem = s.mem := rfl
@[simp] theorem State.halt_disp (s : State) (e : HaltCause) (a : Word) (d : Nat) : (s.halt e a d).disp = s.disp := rfl
@[simp] theorem State.halt_execState (s : State) (e : HaltCause) (a : Word) (d : Nat) : (s.halt e a d).execState = .halted := rfl
@[simp] theorem State.halt_resumeState (s : State) (e : HaltCause) (a : Word) (d : Nat) : (s.halt e a d).resumeState = s.resumeState := rfl
@[simp] theorem State.halt_initResult (s : State) (e : HaltCause) (a : Word) (d : Nat) : (s.halt e a d).initResult = s.initResult := rfl
@[simp] theorem State.halt_kwX (s : State) (e : HaltCause) (a : Word) (d : Nat) : (s.halt e a d).kwX = s.kwX := rfl
@[simp] theorem State.halt_kwPrevAny (s : State) (e : HaltCause) (a : Word) (d : Nat) : (s.halt e a d).kwPrevAny = s.kwPrevAny := rfl
@[simp] theorem State.halt_haltCause (s : State) (e : HaltCause) (a : Word) (d : Nat) : (s.halt e a d).haltCause = e := rfl
@[simp] theorem State.halt_keys (s : State) (e : HaltCause) (a : Word) (d : Nat) : (s.halt e a d).keys = s.keys := rfl
@[simp] theorem State.halt_reports (s : State) (e : HaltCause) (a : Word) (d : Nat) : (s.halt e a d).reports = .halt e a d :: s.reports := rfl
@[simp] theorem State.halt_params (s : State) (e : HaltCause) (a : Word) (d : Nat) : (s.halt e a d).params = s.params := rfl
@[simp] theorem State.halt_commands (s : State) (e : HaltCause) (a : Word) (d : Nat) : (s.halt e a d).commands = s.commands := rfl
@[simp] theorem State.halt_draws (s : State) (e : HaltCause) (a : Word) (d : Nat) : (s.halt e a d).draws = s.draws := rfl
@[simp] theorem State.halt_reg (s : State) (e : HaltCause) (a : Word) (d : Nat) (r : RegIdx) : (s.halt e a d).reg r = s.reg r := rfl
@[simp] theorem State.halt_readByte (s : State) (e : HaltCause) (a : Word) (d : Nat) (c : Nat) : (s.halt e a d).readByte c = s.readByte c := rfl
@[simp] theorem State.halt_pixel (s : State) (e : HaltCause) (a : Word) (d : Nat) (x : Fin 64) (y : Fin 32) : (s.halt e a d).pixel x y = s.pixel x y := rfl
@[simp] theorem State.halt_key (s : State) (e : HaltCause) (a : Word) (d : Nat) (k : Fin 16) : (s.halt e a d).key k = s.key k := rfl

/-! ### reportInvalid -/

@[simp] theorem State.reportInvalid_regs (s : State) (w a : Word) : (s.reportInvalid w a).regs = s.regs := rfl
@[simp] theorem State.reportInvalid_pc (s : State) (w a : Word) : (s.reportInvalid w a).pc = s.pc := rfl
@[simp] theorem State.reportInvalid_idx (s : State) (w a : Word) : (s.reportInvalid w a).idx = s.idx := rfl
@[simp] theorem State.reportInvalid_sp (s : State) (w a : Word) : (s.reportInvalid w a).sp = s.sp := rfl
@[simp] theorem State.reportInvalid_stack (s : State) (w a : Word) : (s.reportInvalid w a).stack = s.stack := rfl
@[simp] theorem State.reportInvalid_dt (s : State) (w a : Word) : (s.reportInvalid w a).dt = s.dt := rfl
@[simp] theorem State.reportInvalid_st (s : State) (w a : Word) : (s.reportInvalid w a).st = s.st := rfl
@[simp] theorem State.reportInvalid_mem (s : State) (w a : Word) : (s.reportInvalid w a).mem = s.mem := rfl
@[simp] theorem State.reportInvalid_disp (s : State) (w a : Word) : (s.reportInvalid w a).disp = s.disp := rfl
@[simp] theorem State.reportInvalid_execState (s : State) (w a : Word) : (s.reportInvalid w a).execState = s.execState := rfl
@[simp] theorem State.reportInvalid_resumeState (s : State) (w a : Word) : (s.reportInvalid w a).resumeState = s.resumeState := rfl
@[simp] theorem State.reportInvalid_initResult (s : State) (w a : Word) : (s.reportInvalid w a).initResult = s.initResult := rfl
@[simp] theorem State.reportInvalid_kwX (s : State) (w a : Word) : (s.reportInvalid w a).kwX = s.kwX := rfl
@[simp] theorem State.reportInvalid_kwPrevAny (s : State) (w a : Word) : (s.reportInvalid w a).kwPrevAny = s.kwPrevAny := rfl
@[simp] theorem State.reportInvalid_haltCause (s : State) (w a : Word) : (s.reportInvalid w a).haltCause = s.haltCause := rfl
@[simp] theorem State.reportInvalid_keys (s : State) (w a : Word) : (s.reportInvalid w a).keys = s.keys := rfl
@[simp] theorem State.reportInvalid_reports (s : State) (w a : Word) : (s.reportInvalid w a).reports = .invalidOpcode w a :: s.reports := rfl
@[simp] theorem State.reportInvalid_params (s : State) (w a : Word) : (s.reportInvalid w a).params = s.params := rfl
@[simp] theorem State.reportInvalid_commands (s : State) (w a : Word) : (s.reportInvalid w a).commands = s.commands := rfl
@[simp] theorem State.reportInvalid_draws (s : State) (w a : Word) : (s.reportInvalid w a).draws = s.draws := rfl
@[simp] theorem State.reportInvalid_reg (s : State) (w a : Word) (r : RegIdx) : (s.reportInvalid w a).reg r = s.reg r := rfl
@[simp] theorem State.reportInvalid_readByte (s : State) (w a : Word) (c : Nat) : (s.reportInvalid w a).readByte c = s.readByte c := rfl
@[simp] theorem State.reportInvalid_pixel (s : State) (w a : Word) (x : Fin 64) (y : Fin 32) : (s.reportInvalid w a).pixel x y = s.pixel x y := rfl
@[simp] theorem State.reportInvalid_key (s : State) (w a : Word) (k : Fin 16) : (s.reportInvalid w a).key k = s.key k := rfl

/-! ### drawn -/

@[simp] theorem State.drawn_regs (s : State) : (s.drawn).regs = s.regs := rfl
@[simp] theorem State.drawn_pc (s : State) : (s.drawn).pc = s.pc := rfl
@[simp] theorem State.drawn_idx (s : State) : (s.drawn).idx = s.idx := rfl
@[simp] theorem State.drawn_sp (s : State) : (s.drawn).sp = s.sp := rfl
@[simp] theorem State.drawn_stack (s : State) : (s.drawn).stack = s.stack := rfl
@[simp] theorem State.drawn_dt (s : State) : (s.drawn).dt = s.dt := rfl
@[simp] theorem State.drawn_st (s : State) : (s.drawn).st = s.st := rfl
@[simp] theorem State.drawn_mem (s : State) : (s.drawn).mem = s.mem := rfl
@[simp] theorem State.drawn_disp (s : State) : (s.drawn).disp = s.disp := rfl
@[simp] theorem State.drawn_execState (s : State) : (s.drawn).execState = s.execState := rfl
@[simp] theorem State.drawn_resumeState (s : State) : (s.drawn).resumeState = s.resumeState := rfl
@[simp] theorem State.drawn_initResult (s : State) : (s.drawn).initResult = s.initResult := rfl
@[simp] theorem State.drawn_kwX (s : State) : (s.drawn).kwX = s.kwX := rfl
@[simp] theorem State.drawn_kwPrevAny (s : State) : (s.drawn).kwPrevAny = s.kwPrevAny := rfl
@[simp] theorem State.drawn_haltCause (s : State) : (s.drawn).haltCause = s.haltCause := rfl
@[simp] theorem State.drawn_keys (s : State) : (s.drawn).keys = s.keys := rfl
@[simp] theorem State.drawn_reports (s : State) : (s.drawn).reports = s.reports := rfl
@[simp] theorem State.drawn_params (s : State) : (s.drawn).params = s.params := rfl
@[simp] theorem State.drawn_commands (s : State) : (s.drawn).commands = s.commands := rfl
@[simp] theorem State.drawn_draws (s : State) : (s.drawn).draws = s.draws + 1 := rfl
@[simp] theorem State.drawn_reg (s : State) (r : RegIdx) : (s.drawn).reg r = s.reg r := rfl
@[simp] theorem State.drawn_readByte (s : State) (c : Nat) : (s.drawn).readByte c = s.readByte c := rfl
@[simp] theorem State.drawn_pixel (s : State) (x : Fin 64) (y : Fin 32) : (s.drawn).pixel x y = s.pixel x y := rfl
@[simp] theorem State.drawn_key (s : State) (k : Fin 16) : (s.drawn).key k = s.key k := rfl

/-! ### setKeys -/

@[simp] theorem State.setKeys_regs (s : State) (l : Keypad) : (s.setKeys l).regs = s.regs := rfl
@[simp] theorem State.setKeys_pc (s : State) (l : Keypad) : (s.setKeys l).pc = s.pc := rfl
@[simp] theorem State.setKeys_idx (s : State) (l : Keypad) : (s.setKeys l).idx = s.idx := rfl
@[simp] theorem State.setKeys_sp (s : State) (l : Keypad) : (s.setKeys l).sp = s.sp := rfl
@[simp] theorem State.setKeys_stack (s : State) (l : Keypad) : (s.setKeys l).stack = s.stack := rfl
@[simp] theorem State.setKeys_dt (s : State) (l : Keypad) : (s.setKeys l).dt = s.dt := rfl
@[simp] theorem State.setKeys_st (s : State) (l : Keypad) : (s.setKeys l).st = s.st := rfl
@[simp] theorem State.setKeys_mem (s : State) (l : Keypad) : (s.setKeys l).mem = s.mem := rfl
@[simp] theorem State.setKeys_disp (s : State) (l : Keypad) : (s.setKeys l).disp = s.disp := rfl
@[simp] theorem State.setKeys_execState (s : State) (l : Keypad) : (s.setKeys l).execState = s.execState := rfl
@[simp] theorem State.setKeys_resumeState (s : State) (l : Keypad) : (s.setKeys l).resumeState = s.resumeState := rfl
@[simp] theorem State.setKeys_initResult (s : State) (l : Keypad) : (s.setKeys l).initResult = s.initResult := rfl
@[simp] theorem State.setKeys_kwX (s : State) (l : Keypad) : (s.setKeys l).kwX = s.kwX := rfl
@[simp] theorem State.setKeys_kwPrevAny (s : State) (l : Keypad) : (s.setKeys l).kwPrevAny = s.kwPrevAny := rfl
@[simp] theorem State.setKeys_haltCause (s : State) (l : Keypad) : (s.setKeys l).haltCause = s.haltCause := rfl
@[simp] theorem State.setKeys_keys (s : State) (l : Keypad) : (s.setKeys l).keys = l := rfl
@[simp] theorem State.setKeys_reports (s : State) (l : Keypad) : (s.setKeys l).reports = s.reports := rfl
@[simp] theorem State.setKeys_params (s : State) (l : Keypad) : (s.setKeys l).params = s.params := rfl
@[simp] theorem State.setKeys_commands (s : State) (l : Keypad) : (s.setKeys l).commands = s.commands := rfl
@[simp] theorem State.setKeys_draws (s : State) (l : Keypad) : (s.setKeys l).draws = s.draws := rfl
@[simp] theorem State.setKeys_reg (s : State) (l : Keypad) (r : RegIdx) : (s.setKeys l).reg r = s.reg r := rfl
@[simp] theorem State.setKeys_readByte (s : State) (l : Keypad) (c : Nat) : (s.setKeys l).readByte c = s.readByte c := rfl
@[simp] theorem State.setKeys_pixel (s : State) (l : Keypad) (x : Fin 64) (y : Fin 32) : (s.setKeys l).pixel x y = s.pixel x y := rfl

/-! ### tick -/

@[simp] theorem State.tick_regs (s : State) : (s.tick).regs = s.regs := rfl
@[simp] theorem State.tick_pc (s : State) : (s.tick).pc = s.pc := rfl
@[simp] theorem State.tick_idx (s : State) : (s.tick).idx = s.idx := rfl
@[simp] theorem State.tick_sp (s : State) : (s.tick).sp = s.sp := rfl
@[simp] theorem State.tick_stack (s : State) : (s.tick).stack = s.stack := rfl
@[simp] theorem State.tick_dt (s : State) : (s.tick).dt = tickDown s.dt := rfl
@[simp] theorem State.tick_st (s : State) : (s.tick).st = tickDown s.st := rfl
@[simp] theorem State.tick_mem (s : State) : (s.tick).mem = s.mem := rfl
@[simp] theorem State.tick_disp (s : State) : (s.tick).disp = s.disp := rfl
@[simp] theorem State.tick_execState (s : State) : (s.tick).execState = s.execState := rfl
@[simp] theorem State.tick_resumeState (s : State) : (s.tick).resumeState = s.resumeState := rfl
@[simp] theorem State.tick_initResult (s : State) : (s.tick).initResult = s.initResult := rfl
@[simp] theorem State.tick_kwX (s : State) : (s.tick).kwX = s.kwX := rfl
@[simp] theorem State.tick_kwPrevAny (s : State) : (s.tick).kwPrevAny = s.kwPrevAny := rfl
@[simp] theorem State.tick_haltCause (s : State) : (s.tick).haltCause = s.haltCause := rfl
@[simp] theorem State.tick_keys (s : State) : (s.tick).keys = s.keys := rfl
@[simp] theorem State.tick_reports (s : State) : (s.tick).reports = s.reports := rfl
@[simp] theorem State.tick_params (s : State) : (s.tick).params = s.params := rfl
@[simp] theorem State.tick_commands (s : State) : (s.tick).commands = s.commands := rfl
@[simp] theorem State.tick_draws (s : State) : (s.tick).draws = s.draws := rfl
@[simp] theorem State.tick_reg (s : State) (r : RegIdx) : (s.tick).reg r = s.reg r := rfl
@[simp] theorem State.tick_readByte (s : State) (c : Nat) : (s.tick).readByte c = s.readByte c := rfl
@[simp] theorem State.tick_pixel (s : State) (x : Fin 64) (y : Fin 32) : (s.tick).pixel x y = s.pixel x y := rfl
@[simp] theorem State.tick_key (s : State) (k : Fin 16) : (s.tick).key k = s.key k := rfl

/-! ### taken -/

@[simp] theorem State.taken_regs (s : State) : (s.taken).regs = s.regs := rfl
@[simp] theorem State.taken_pc (s : State) : (s.taken).pc = s.pc := rfl
@[simp] theorem State.taken_idx (s : State) : (s.taken).idx = s.idx := rfl
@[simp] theorem State.taken_sp (s : State) : (s.taken).sp = s.sp := rfl
@[simp] theorem State.taken_stack (s : State) : (s.taken).stack = s.stack := rfl
@[simp] theorem State.taken_dt (s : State) : (s.taken).dt = s.dt := rfl
@[simp] theorem State.taken_st (s : State) : (s.taken).st = s.st := rfl
@[simp] theorem State.taken_mem (s : State) : (s.taken).mem = s.mem := rfl
@[simp] theorem State.taken_disp (s : State) : (s.taken).disp = s.disp := rfl
@[simp] theorem State.taken_execState (s : State) : (s.taken).execState = s.execState := rfl
@[simp] theorem State.taken_resumeState (s : State) : (s.taken).resumeState = s.resumeState := rfl
@[simp] theorem State.taken_initResult (s : State) : (s.taken).initResult = s.initResult := rfl
@[simp] theorem State.taken_kwX (s : State) : (s.taken).kwX = s.kwX := rfl
@[simp] theorem State.taken_kwPrevAny (s : State) : (s.taken).kwPrevAny = s.kwPrevAny := rfl
@[simp] theorem State.taken_haltCause (s : State) : (s.taken).haltCause = s.haltCause := rfl
@[simp] theorem State.taken_keys (s : State) : (s.taken).keys = s.keys := rfl
@[simp] theorem State.taken_reports (s : State) : (s.taken).reports = s.reports := rfl
@[simp] theorem State.taken_params (s : State) : (s.taken).params = s.params := rfl
@[simp] theorem State.taken_commands (s : State) : (s.taken).commands = s.commands.tail := rfl
@[simp] theorem State.taken_draws (s : State) : (s.taken).draws = s.draws := rfl
@[simp] theorem State.taken_reg (s : State) (r : RegIdx) : (s.taken).reg r = s.reg r := rfl
@[simp] theorem State.taken_readByte (s : State) (c : Nat) : (s.taken).readByte c = s.readByte c := rfl
@[simp] theorem State.taken_pixel (s : State) (x : Fin 64) (y : Fin 32) : (s.taken).pixel x y = s.pixel x y := rfl
@[simp] theorem State.taken_key (s : State) (k : Fin 16) : (s.taken).key k = s.key k := rfl

end Sys2Proof.Machine
end

