-- ==== Sys2Proof/Laws/Ops.lean ====
section
/-! SUPPORT. What each shared operation over registers, ranges, the stack, the keypad and the frame can do. -/

namespace Sys2Proof.Machine

/-! ### Registers -/

theorem State.reg_setReg (s : State) (i r : RegIdx) (v : Byte) :
    (s.setReg i v).reg r = if r = i then v else s.reg r := by
  by_cases h : r = i
  · subst h; simp [State.reg, State.setReg]
  · have : i.val ≠ r.val := fun e => h (Fin.ext e.symm)
    simp [State.reg, State.setReg, h, this]

@[simp] theorem State.reg_setReg_self (s : State) (i : RegIdx) (v : Byte) : (s.setReg i v).reg i = v := by
  simp [State.reg_setReg]

theorem State.reg_setReg_ne (s : State) {i r : RegIdx} (v : Byte) (h : r ≠ i) : (s.setReg i v).reg r = s.reg r := by
  simp [State.reg_setReg, h]

theorem State.reg_loadRegsThrough (s : State) (x r : RegIdx) :
    (s.loadRegsThrough x).reg r = if r.val ≤ x.val then s.readByte (s.indexAddr + r.val) else s.reg r := by
  simp only [State.reg, State.loadRegsThrough, Fin.getElem_fin, Vector.getElem_mapFinIdx]

theorem State.length_regsThrough (s : State) (x : RegIdx) : (s.regsThrough x).length = x.val + 1 := by
  simp only [State.regsThrough, regCount, List.length_take, Vector.length_toList]
  omega

theorem State.getElem?_regsThrough (s : State) (x : RegIdx) (r : RegIdx) (h : r.val ≤ x.val) :
    (s.regsThrough x)[r.val]? = some (s.reg r) := by
  have : r.val < x.val + 1 := by omega
  simp [State.regsThrough, regCount, this, State.reg]

/-! ### Ranges -/

theorem checkRange_none_iff (a n : Nat) : checkRange a n = none ↔ n = 0 ∨ a + n ≤ Config.memSize := by
  induction n generalizing a with
  | zero => simp [checkRange]
  | succ n ih =>
    simp only [checkRange]
    split
    · simp; omega
    · rw [ih]; omega

theorem checkRange_some (a n b : Nat) (h : checkRange a n = some b) : b = max a Config.memSize ∧ b < a + n := by
  induction n generalizing a with
  | zero => simp [checkRange] at h
  | succ n ih =>
    simp only [checkRange] at h
    split at h
    · cases h; omega
    · have := ih _ h; omega

theorem checkRange_out (a n : Nat) (hn : n ≠ 0) (h : Config.memSize < a + n) :
    checkRange a n = some (max a Config.memSize) := by
  cases hc : checkRange a n with
  | none => rw [checkRange_none_iff] at hc; omega
  | some b => rw [(checkRange_some a n b hc).1]

/-- A range that exists, the empty one included. -/
theorem State.withRange_ok (s k : State) (a n : Nat) (h : n = 0 ∨ a + n ≤ Config.memSize) : s.withRange a n k = k := by
  simp [State.withRange, (checkRange_none_iff a n).2 h]

/-- A range with a byte out of memory halts with the lowest such address. -/
theorem State.withRange_out (s k : State) (a n : Nat) (hn : n ≠ 0) (h : Config.memSize < a + n) :
    s.withRange a n k = s.halt .outOfRange s.instrAddr (max a Config.memSize) := by
  simp [State.withRange, checkRange_out a n hn h, State.raiseOutOfRange]

/-- All that `withRange` can do. -/
theorem State.withRange_cases (s k : State) (a n : Nat) :
    (s.withRange a n k = k ∧ (n = 0 ∨ a + n ≤ Config.memSize)) ∨
    (s.withRange a n k = s.halt .outOfRange s.instrAddr (max a Config.memSize) ∧ n ≠ 0 ∧ Config.memSize < a + n) := by
  by_cases h : n = 0 ∨ a + n ≤ Config.memSize
  · exact .inl ⟨s.withRange_ok k a n h, h⟩
  · exact .inr ⟨s.withRange_out k a n (by omega) (by omega), by omega, by omega⟩

/-! ### Halting -/

/-- What a halt leaves (60_exceptions.md R213). -/
theorem State.halt_haltedBy (s : State) (e : HaltCause) (a : Word) (d : Nat) : HaltedBy e a d s (s.halt e a d) := by
  refine ⟨rfl, rfl, rfl, ?_⟩
  intro p hp
  cases p <;> simp_all [Part.same]

/-! ### The call stack -/

/-- All that `push` can do. -/
theorem State.push_cases (s : State) (v : Word) :
    (s.sp.toNat < s.params.stackDepth ∧
      s.push v = .ok { s with stack := s.stack.set s.sp.toNat v, sp := s.sp + 1 }) ∨
    (s.params.stackDepth ≤ s.sp.toNat ∧ s.push v = .error (s.halt .stackOverflow s.instrAddr 0)) := by
  by_cases h : s.sp.toNat < s.params.stackDepth
  · exact .inl ⟨h, by simp [State.push, h]⟩
  · exact .inr ⟨by omega, by simp [State.push, h]⟩

/-- All that `pop` can do. -/
theorem State.pop_cases (s : State) :
    (s.sp = 0 ∧ s.pop = .error (s.halt .stackUnderflow s.instrAddr 0)) ∨
    (s.sp ≠ 0 ∧ s.pop = .ok (s.stack.getD (s.sp.toNat - 1) 0, { s with sp := s.sp - 1 })) := by
  by_cases h : s.sp = 0
  · exact .inl ⟨h, by simp [State.pop, h]⟩
  · exact .inr ⟨h, if_neg h⟩

/-! ### Skips and key tests -/

/-- A skip changes PC alone. -/
theorem State.skipIf_eq (s : State) (c : Bool) : s.skipIf c = s.setPc (if c then s.pc + 2 else s.pc) := by
  cases c <;> rfl

/-- A key test changes the count of draws alone. -/
theorem State.afterKeyTest_eq (s : State) (k : Byte) :
    s.afterKeyTest k = { s with draws := s.draws + if k.toNat < 16 then 0 else 1 } := by
  by_cases h : k.toNat < 16 <;> simp [State.afterKeyTest, h, State.drawn]

/-! ### The keypad -/

theorem mem_keyIndices (k : Fin 16) : k ∈ keyIndices := by
  revert k; decide

@[simp] theorem State.mem_keysDown (s : State) (k : Fin 16) : k ∈ s.keysDown ↔ s.key k = true := by
  simp [State.keysDown, mem_keyIndices]

theorem State.anyKey_iff (s : State) : s.anyKey = true ↔ ∃ k, s.key k = true := by
  simp [State.anyKey, mem_keyIndices]

/-- The key picked is one of those given. -/
theorem pickKey_mem (c : Nat) (ks : List (Fin 16)) (h : ks ≠ []) : pickKey c ks ∈ ks := by
  match ks with
  | [k] => simp [pickKey]
  | k :: l :: ks =>
    have hc : c % (ks.length + 2) < (k :: l :: ks).length := Nat.mod_lt c (Nat.succ_pos _)
    simp only [pickKey, List.getD_eq_getElem?_getD, List.getElem?_eq_getElem hc, Option.getD_some]
    exact List.getElem_mem hc

/-- The key captured is a key that is down. -/
theorem State.pickKey_down (s : State) (c : Nat) (h : s.anyKey = true) : s.key (pickKey c s.keysDown) = true := by
  obtain ⟨k, hk⟩ := s.anyKey_iff.1 h
  exact (s.mem_keysDown _).1 (pickKey_mem c _ (List.ne_nil_of_mem ((s.mem_keysDown k).2 hk)))

/-! ### Reading memory -/

theorem State.length_readBytes (s : State) (a n : Nat) : (s.readBytes a n).length = n := by
  induction n generalizing a with
  | zero => rfl
  | succ n ih => simp [State.readBytes, ih]

theorem State.getElem?_readBytes (s : State) (a n j : Nat) (h : j < n) :
    (s.readBytes a n)[j]? = some (s.readByte (a + j)) := by
  induction n generalizing a j with
  | zero => omega
  | succ n ih =>
    cases j with
    | zero => simp [State.readBytes]
    | succ j => simp [State.readBytes, ih (a + 1) j (by omega)]; congr 1; omega

end Sys2Proof.Machine
end

