-- ==== Sys2Proof/Laws/Memory.lean ====
section
/-! SUPPORT. Memory: a read after a write, and the canonical form, which every memory operation keeps. -/

namespace Sys2Proof.Machine

theorem Memory.wfFrom_cons {font : List Byte} {lo c : Nat} {b : Byte} {m : Memory} :
    Memory.wfFrom font lo ((c, b) :: m) = true ↔
      lo ≤ c ∧ c < Config.memSize ∧ b ≠ Memory.background font c ∧ Memory.wfFrom font (c + 1) m = true := by
  simp [Memory.wfFrom, and_assoc]

theorem Memory.wfFrom_mono {font : List Byte} {lo lo' : Nat} {m : Memory} (hle : lo' ≤ lo)
    (h : Memory.wfFrom font lo m = true) : Memory.wfFrom font lo' m = true := by
  cases m with
  | nil => rfl
  | cons e m =>
    obtain ⟨c, b⟩ := e
    rw [Memory.wfFrom_cons] at h ⊢
    exact ⟨by omega, h.2⟩

/-- Below its first address a canonical list reads as the background. -/
theorem Memory.read_below {font : List Byte} {lo a : Nat} {m : Memory} (h : Memory.wfFrom font lo m = true)
    (ha : a < lo) : Memory.read font m a = Memory.background font a := by
  induction m generalizing lo with
  | nil => rfl
  | cons e m ih =>
    obtain ⟨c, b⟩ := e
    rw [Memory.wfFrom_cons] at h
    have : c ≠ a := by omega
    simp [Memory.read, this, ih h.2.2.2 (by omega)]

/-- A write leaves every other address alone, whatever the list. -/
theorem Memory.read_write_ne (font : List Byte) (m : Memory) {a c : Nat} (b : Byte) (h : c ≠ a) :
    Memory.read font (Memory.write font m a b) c = Memory.read font m c := by
  induction m with
  | nil =>
    simp only [Memory.write]
    split <;> simp [Memory.read, h.symm]
  | cons e m ih =>
    obtain ⟨d, v⟩ := e
    simp only [Memory.write]
    split
    · split <;> simp [Memory.read, h.symm]
    · split
      · rename_i hd
        subst hd
        split <;> simp [Memory.read, h.symm]
      · simp [Memory.read, ih]

theorem Memory.read_write_self_from {font : List Byte} {lo : Nat} {m : Memory} (hm : Memory.wfFrom font lo m = true)
    (a : Nat) (b : Byte) : Memory.read font (Memory.write font m a b) a = b := by
  induction m generalizing lo with
  | nil =>
    simp only [Memory.write]
    split <;> simp_all [Memory.read]
  | cons e m ih =>
    obtain ⟨d, v⟩ := e
    have h := Memory.wfFrom_cons.1 hm
    simp only [Memory.write]
    split
    · split
      · rename_i h1 h2
        rw [h2, Memory.read_below (lo := d) (Memory.wfFrom_cons.2 ⟨le_refl d, h.2⟩) h1]
      · simp [Memory.read]
    · split
      · rename_i hd
        subst hd
        split
        · rename_i h2
          rw [h2, Memory.read_below h.2.2.2 (by omega)]
        · simp [Memory.read]
      · rename_i hd
        simp [Memory.read, Ne.symm hd, ih h.2.2.2]

/-- A read of the address just written gives the byte written. -/
theorem Memory.read_write_self {font : List Byte} {m : Memory} (hm : Memory.wf font m = true) (a : Nat) (b : Byte) :
    Memory.read font (Memory.write font m a b) a = b :=
  Memory.read_write_self_from hm a b

theorem Memory.wfFrom_write {font : List Byte} {lo : Nat} {m : Memory} (hm : Memory.wfFrom font lo m = true)
    {a : Nat} (b : Byte) (hlo : lo ≤ a) (ha : a < Config.memSize) :
    Memory.wfFrom font lo (Memory.write font m a b) = true := by
  induction m generalizing lo with
  | nil =>
    simp only [Memory.write]
    split
    · rfl
    · exact Memory.wfFrom_cons.2 ⟨hlo, ha, ‹_›, rfl⟩
  | cons e m ih =>
    obtain ⟨d, v⟩ := e
    have h := Memory.wfFrom_cons.1 hm
    simp only [Memory.write]
    split
    · split
      · exact hm
      · exact Memory.wfFrom_cons.2 ⟨hlo, ha, ‹_›, Memory.wfFrom_cons.2 ⟨by omega, h.2⟩⟩
    · split
      · rename_i hd
        subst hd
        split
        · exact Memory.wfFrom_mono (by omega) h.2.2.2
        · exact Memory.wfFrom_cons.2 ⟨h.1, h.2.1, ‹_›, h.2.2.2⟩
      · exact Memory.wfFrom_cons.2 ⟨h.1, h.2.1, h.2.2.1, ih h.2.2.2 (by omega)⟩

/-- A write to an address that exists keeps the canonical form. -/
theorem Memory.wf_write {font : List Byte} {m : Memory} (hm : Memory.wf font m = true) {a : Nat} (b : Byte)
    (ha : a < Config.memSize) : Memory.wf font (Memory.write font m a b) = true :=
  Memory.wfFrom_write hm b (Nat.zero_le a) ha

/-- Consecutive writes to addresses that exist keep the canonical form. -/
theorem Memory.wf_writeBytes {font : List Byte} {m : Memory} (hm : Memory.wf font m = true) (a : Nat) (bs : List Byte)
    (ha : a + bs.length ≤ Config.memSize) : Memory.wf font (Memory.writeBytes font m a bs) = true := by
  induction bs generalizing m a with
  | nil => exact hm
  | cons b bs ih =>
    simp only [List.length_cons] at ha
    exact ih (Memory.wf_write hm b (by omega)) (a + 1) (by omega)

/-- Consecutive writes leave every address outside them alone. -/
theorem Memory.read_writeBytes_out (font : List Byte) (m : Memory) (a c : Nat) (bs : List Byte)
    (h : c < a ∨ a + bs.length ≤ c) : Memory.read font (Memory.writeBytes font m a bs) c = Memory.read font m c := by
  induction bs generalizing m a with
  | nil => rfl
  | cons b bs ih =>
    simp only [List.length_cons] at h
    rw [Memory.writeBytes, ih _ _ (by omega), Memory.read_write_ne font m b (by omega)]

/-- Consecutive writes are read back. -/
theorem Memory.read_writeBytes_in {font : List Byte} {m : Memory} (hm : Memory.wf font m = true) (a : Nat)
    (bs : List Byte) (ha : a + bs.length ≤ Config.memSize) (j : Nat) (hj : j < bs.length) :
    Memory.read font (Memory.writeBytes font m a bs) (a + j) = bs[j] := by
  induction bs generalizing m a j with
  | nil => simp at hj
  | cons b bs ih =>
    simp only [List.length_cons] at ha hj
    cases j with
    | zero =>
      rw [Memory.writeBytes, Memory.read_writeBytes_out _ _ _ _ _ (by omega)]
      exact Memory.read_write_self hm a b
    | succ j =>
      have := ih (Memory.wf_write hm b (show a < Config.memSize by omega)) (a + 1) (by omega) j (by omega)
      rw [Memory.writeBytes, show a + (j + 1) = a + 1 + j by omega, this]
      rfl

/-! ### The same of State -/

theorem State.readByte_writeBytes_out (s : State) (a c : Nat) (bs : List Byte) (h : c < a ∨ a + bs.length ≤ c) :
    (s.writeBytes a bs).readByte c = s.readByte c :=
  Memory.read_writeBytes_out _ _ a c bs h

theorem State.readByte_writeBytes_in (s : State) (hm : MemoryOk s) (a : Nat) (bs : List Byte)
    (ha : a + bs.length ≤ Config.memSize) (j : Nat) (hj : j < bs.length) :
    (s.writeBytes a bs).readByte (a + j) = bs[j] :=
  Memory.read_writeBytes_in hm a bs ha j hj

theorem State.memoryOk_writeBytes (s : State) (hm : MemoryOk s) (a : Nat) (bs : List Byte)
    (ha : a + bs.length ≤ Config.memSize) : MemoryOk (s.writeBytes a bs) :=
  Memory.wf_writeBytes hm a bs ha

end Sys2Proof.Machine
end

