-- ==== Sys2Proof/Laws/Draw.lean ====
section
/-! SUPPORT. The display, and what drawing does to each pixel and to the collision flag (spec/44_draw.md R170). -/

namespace Sys2Proof.Machine

@[simp] theorem Display.pixel_blank (x : Fin 64) (y : Fin 32) : Display.blank.pixel x y = false := by
  simp [Display.pixel, Display.blank]

theorem Display.pixel_flip (d : Display) (x px : Fin 64) (y py : Fin 32) :
    (d.flip x y).pixel px py = (d.pixel px py ^^ decide (px = x ∧ py = y)) := by
  by_cases hx : px = x
  · subst hx
    by_cases hy : py = y
    · subst hy
      simp [Display.pixel, Display.flip]
    · have : y.val ≠ py.val := fun e => hy (Fin.ext e.symm)
      simp [Display.pixel, Display.flip, hy, this]
  · have : x.val ≠ px.val := fun e => hx (Fin.ext e.symm)
    simp [Display.pixel, Display.flip, hx, this]

/-- The bit of a row that starts at column x at the column px, false outside the row. -/
def bitAt (x : Nat) (bits : List Bool) (px : Nat) : Bool := decide (x ≤ px) && bits.getD (px - x) false

theorem bitAt_cons (x : Nat) (b : Bool) (bs : List Bool) (px : Nat) :
    bitAt x (b :: bs) px = ((decide (px = x) && b) || bitAt (x + 1) bs px) := by
  unfold bitAt
  rcases Nat.lt_trichotomy px x with h | h | h
  · simp [show ¬ x ≤ px by omega, show ¬ px = x by omega, show ¬ x + 1 ≤ px by omega]
  · subst h; simp
  · obtain ⟨k, rfl⟩ : ∃ k, px = x + 1 + k := ⟨px - x - 1, by omega⟩
    simp [show x + 1 + k - x = k + 1 by omega, show ¬ x + 1 + k = x by omega, show x ≤ x + 1 + k by omega]

/-- At its own column the rest of a row has no bit. -/
theorem bitAt_succ_self (x : Nat) (bs : List Bool) : bitAt (x + 1) bs x = false := by simp [bitAt]

/-- A row inverts the pixels under its 1 bits. -/
theorem pixel_drawRow (y : Fin 32) (x : Nat) (bits : List Bool) (c : Canvas) (px : Fin 64) (py : Fin 32) :
    (drawRow y x bits c).disp.pixel px py = (c.disp.pixel px py ^^ (decide (py = y) && bitAt x bits px.val)) := by
  induction bits generalizing x c with
  | nil => simp [drawRow, bitAt]
  | cons b bs ih =>
    simp only [drawRow]
    split
    · rename_i hx
      rw [ih, bitAt_cons]
      by_cases hp : px.val = x
      · have hpx : px = ⟨x, hx⟩ := Fin.ext hp
        cases b <;> by_cases hy : py = y <;>
          simp [Canvas.toggle, Display.pixel_flip, hpx, hy, bitAt_succ_self]
      · have hpx : px ≠ ⟨x, hx⟩ := fun e => hp (congrArg Fin.val e)
        cases b <;> simp [Canvas.toggle, Display.pixel_flip, hpx, hp]
    · have : ¬ x ≤ px.val := by omega
      simp [bitAt, this]

/-- A row hits when a pixel under one of its 1 bits was on. -/
theorem hit_drawRow (y : Fin 32) (x : Nat) (bits : List Bool) (c : Canvas) :
    (drawRow y x bits c).hit = true ↔
      c.hit = true ∨ ∃ px : Fin 64, bitAt x bits px.val = true ∧ c.disp.pixel px y = true := by
  induction bits generalizing x c with
  | nil => simp [drawRow, bitAt]
  | cons b bs ih =>
    simp only [drawRow]
    split
    · rename_i hx
      rw [ih]
      have key (px : Fin 64) (h : bitAt (x + 1) bs px.val = true) :
          (if b then c.toggle ⟨x, hx⟩ y else c).disp.pixel px y = c.disp.pixel px y := by
        have hpx : px ≠ ⟨x, hx⟩ := by
          rintro rfl
          simp [bitAt_succ_self] at h
        cases b <;> simp [Canvas.toggle, Display.pixel_flip, hpx]
      constructor
      · rintro (h | ⟨px, h1, h2⟩)
        · cases b
          · exact .inl h
          · simp only [Canvas.toggle, if_true, Bool.or_eq_true] at h
            rcases h with h | h
            · exact .inl h
            · exact .inr ⟨⟨x, hx⟩, by simp [bitAt_cons], h⟩
        · exact .inr ⟨px, by simp [bitAt_cons, h1], (key px h1) ▸ h2⟩
      · rintro (h | ⟨px, h1, h2⟩)
        · left
          cases b <;> simp [Canvas.toggle, h]
        · rw [bitAt_cons, Bool.or_eq_true] at h1
          rcases h1 with h1 | h1
          · simp only [Bool.and_eq_true, decide_eq_true_eq] at h1
            obtain ⟨hp, rfl⟩ := h1
            have hpx : px = ⟨x, hx⟩ := Fin.ext hp
            subst hpx
            left
            simp [Canvas.toggle, h2]
          · exact .inr ⟨px, h1, by rw [key px h1]; exact h2⟩
    · have hb (px : Fin 64) : bitAt x (b :: bs) px.val = false := by
        have : ¬ x ≤ px.val := by omega
        simp [bitAt, this]
      simp [hb]

/-- The bit of a sprite whose rows start at row y at the pixel (px, py), false outside the sprite. -/
def rowsBit (x y : Nat) (rows : List Byte) (px py : Nat) : Bool :=
  decide (y ≤ py) && ((rows[py - y]?).map fun row => bitAt x (rowBits row) px).getD false

theorem rowsBit_cons (x y : Nat) (row : Byte) (rows : List Byte) (px py : Nat) :
    rowsBit x y (row :: rows) px py = ((decide (py = y) && bitAt x (rowBits row) px) || rowsBit x (y + 1) rows px py) := by
  unfold rowsBit
  rcases Nat.lt_trichotomy py y with h | h | h
  · simp [show ¬ y ≤ py by omega, show ¬ py = y by omega, show ¬ y + 1 ≤ py by omega]
  · subst h; simp
  · obtain ⟨k, rfl⟩ : ∃ k, py = y + 1 + k := ⟨py - y - 1, by omega⟩
    simp [show y + 1 + k - y = k + 1 by omega, show ¬ y + 1 + k = y by omega, show y ≤ y + 1 + k by omega]

theorem rowsBit_succ_self (x y : Nat) (rows : List Byte) (px : Nat) : rowsBit x (y + 1) rows px y = false := by
  simp [rowsBit]

/-- A sprite inverts the pixels under its 1 bits. -/
theorem pixel_drawRows (x y : Nat) (rows : List Byte) (c : Canvas) (px : Fin 64) (py : Fin 32) :
    (drawRows x y rows c).disp.pixel px py = (c.disp.pixel px py ^^ rowsBit x y rows px.val py.val) := by
  induction rows generalizing y c with
  | nil => simp [drawRows, rowsBit]
  | cons row rows ih =>
    simp only [drawRows]
    split
    · rename_i hy
      rw [ih, pixel_drawRow, rowsBit_cons]
      by_cases hp : py.val = y
      · have hpy : py = ⟨y, hy⟩ := Fin.ext hp
        simp [hpy, rowsBit_succ_self]
      · have hpy : py ≠ ⟨y, hy⟩ := fun e => hp (congrArg Fin.val e)
        simp [hpy, hp]
    · have : ¬ y ≤ py.val := by omega
      simp [rowsBit, this]

/-- A sprite hits when a pixel under one of its 1 bits was on. -/
theorem hit_drawRows (x y : Nat) (rows : List Byte) (c : Canvas) :
    (drawRows x y rows c).hit = true ↔
      c.hit = true ∨
        ∃ (px : Fin 64) (py : Fin 32), rowsBit x y rows px.val py.val = true ∧ c.disp.pixel px py = true := by
  induction rows generalizing y c with
  | nil => simp [drawRows, rowsBit]
  | cons row rows ih =>
    simp only [drawRows]
    split
    · rename_i hy
      have key (px : Fin 64) (py : Fin 32) (h : rowsBit x (y + 1) rows px.val py.val = true) :
          (drawRow ⟨y, hy⟩ x (rowBits row) c).disp.pixel px py = c.disp.pixel px py := by
        have hpy : py ≠ ⟨y, hy⟩ := by
          rintro rfl
          simp [rowsBit_succ_self] at h
        simp [pixel_drawRow, hpy]
      rw [ih, hit_drawRow]
      constructor
      · rintro ((h | ⟨px, h1, h2⟩) | ⟨px, py, h1, h2⟩)
        · exact .inl h
        · exact .inr ⟨px, ⟨y, hy⟩, by simp [rowsBit_cons, h1], h2⟩
        · exact .inr ⟨px, py, by simp [rowsBit_cons, h1], (key px py h1) ▸ h2⟩
      · rintro (h | ⟨px, py, h1, h2⟩)
        · exact .inl (.inl h)
        · rw [rowsBit_cons, Bool.or_eq_true] at h1
          rcases h1 with h1 | h1
          · simp only [Bool.and_eq_true, decide_eq_true_eq] at h1
            have hpy : py = ⟨y, hy⟩ := Fin.ext h1.1
            subst hpy
            exact .inl (.inr ⟨px, h1.2, h2⟩)
          · exact .inr ⟨px, py, h1, by rw [key px py h1]; exact h2⟩
    · have hb (px : Fin 64) (py : Fin 32) : rowsBit x y (row :: rows) px.val py.val = false := by
        have : ¬ y ≤ py.val := by omega
        simp [rowsBit, this]
      simp [hb]

/-- Bit k from the left of a row is bit 7 − k of its byte. -/
theorem getD_rowBits (row : Byte) (k : Nat) :
    (rowBits row).getD k false = (decide (k < 8) && row.getLsbD (7 - k)) := by
  by_cases h : k < 8
  · have : k = 0 ∨ k = 1 ∨ k = 2 ∨ k = 3 ∨ k = 4 ∨ k = 5 ∨ k = 6 ∨ k = 7 := by omega
    rcases this with rfl | rfl | rfl | rfl | rfl | rfl | rfl | rfl <;> rfl
  · have : (rowBits row).length ≤ k := by simp [rowBits]; omega
    simp [List.getD_eq_getElem?_getD, List.getElem?_eq_none this, h]

end Sys2Proof.Machine
end

