-- ==== Sys2Proof/Laws/Frame.lean ====
section
/-! SUPPORT. What each shared operation leaves unchanged, in the terms of `SameBut`, and what the commands and the
instruction cycle reduce to. -/

namespace Sys2Proof.Machine

/-! ### `SameBut` -/

theorem SameBut.refl (l : List Part) (s : State) : SameBut l s s := by
  intro p _
  cases p <;> simp [Part.same]

theorem Part.same_trans {p : Part} {s t u : State} (h : p.same s t) (h' : p.same t u) : p.same s u := by
  cases p <;> simp_all [Part.same]

theorem SameBut.trans {l : List Part} {s t u : State} (h : SameBut l s t) (h' : SameBut l t u) : SameBut l s u :=
  fun p hp => Part.same_trans (h p hp) (h' p hp)

theorem SameBut.mono {l l' : List Part} {s t : State} (h : SameBut l s t) (hl : l ⊆ l') : SameBut l' s t :=
  fun p hp => h p fun hm => hp (hl hm)

/-! ### The operations' frames -/

theorem State.setReg_frame (s : State) (i : RegIdx) (v : Byte) : SameBut [.regs] s (s.setReg i v) := by
  intro p hp
  cases p <;> simp_all [Part.same]

theorem State.setPc_frame (s : State) (v : Word) : SameBut [.pc] s (s.setPc v) := by
  intro p hp
  cases p <;> simp_all [Part.same]

theorem State.setIdx_frame (s : State) (v : Word) : SameBut [.idx] s (s.setIdx v) := by
  intro p hp
  cases p <;> simp_all [Part.same]

theorem State.setDt_frame (s : State) (v : Byte) : SameBut [.dt] s (s.setDt v) := by
  intro p hp
  cases p <;> simp_all [Part.same]

theorem State.setSt_frame (s : State) (v : Byte) : SameBut [.st] s (s.setSt v) := by
  intro p hp
  cases p <;> simp_all [Part.same]

theorem State.drawn_frame (s : State) : SameBut [.draws] s s.drawn := by
  intro p hp
  cases p <;> simp_all [Part.same]

theorem State.writeBytes_frame (s : State) (a : Nat) (bs : List Byte) : SameBut [.mem] s (s.writeBytes a bs) := by
  intro p hp
  cases p <;> simp_all [Part.same, State.reg]

theorem State.setDisp_frame (s : State) (d : Display) : SameBut [.disp] s { s with disp := d } := by
  intro p hp
  cases p <;> simp_all [Part.same, State.reg, State.readByte]

theorem State.loadRegsThrough_frame (s : State) (x : RegIdx) : SameBut [.regs] s (s.loadRegsThrough x) := by
  intro p hp
  cases p <;> simp_all [Part.same, State.loadRegsThrough, State.readByte, State.pixel]

theorem State.setKeyWait_frame (s : State) (x : RegIdx) (b : Bool) (e : ExecState) :
    SameBut [.execState, .keyWait] s { s with kwX := x, kwPrevAny := b, execState := e } := by
  intro p hp
  cases p <;> simp_all [Part.same, State.reg, State.readByte, State.pixel]

theorem State.setStack_frame (s : State) (k : List Word) (v w : Word) :
    SameBut [.pc, .sp, .stack] s { s with stack := k, sp := v, pc := w } := by
  intro p hp
  cases p <;> simp_all [Part.same, State.reg, State.readByte, State.pixel]

theorem State.setSp_frame (s : State) (v w : Word) : SameBut [.pc, .sp] s { s with sp := v, pc := w } := by
  intro p hp
  cases p <;> simp_all [Part.same, State.reg, State.readByte, State.pixel]

/-- A skip's frame, and where it goes. -/
theorem State.skipIf_frame (s : State) (c : Bool) : SameBut [.pc] s (s.skipIf c) := by
  rw [s.skipIf_eq]
  exact s.setPc_frame _

theorem State.skipIf_pc (s : State) (c : Bool) : (s.skipIf c).pc = if c = true then s.pc + 2 else s.pc := by
  simp [s.skipIf_eq]

theorem State.afterKeyTest_frame (s : State) (k : Byte) : SameBut [.draws] s (s.afterKeyTest k) := by
  rw [s.afterKeyTest_eq]
  intro p hp
  cases p <;> simp_all [Part.same, State.reg, State.readByte, State.pixel]

/-! ### The fetch and the cycle -/

/-- The fetch of two bytes that exist. -/
theorem State.fetch_ok (s : State) (h : FetchOk s) :
    s.fetch = .ok [s.readByte s.pc.toNat, s.readByte (s.pc.toNat + 1)] := by
  simp [State.fetch, (checkRange_none_iff s.pc.toNat 2).2 (.inr h), State.readBytes]

/-- The fetch of two bytes one of which does not exist. -/
theorem State.fetch_out (s : State) (h : ¬FetchOk s) : s.fetch = .error (max s.pc.toNat Config.memSize) := by
  have : Config.memSize < s.pc.toNat + 2 := by
    unfold FetchOk at h
    omega
  simp [State.fetch, checkRange_out s.pc.toNat 2 (by omega) this]

/-- Decoding rejects a whole word only as the invalid opcode it is (30_encoding.md R99). -/
theorem decodeWord_error (w : Word) (e : DecodeError) (h : decodeWord w = .error e) : e = .invalidOpcode w := by
  unfold decodeWord decodeUnit0 decodeUnit8 decodeUnitE decodeUnitF at h
  repeat' split at h
  all_goals first | cases h; rfl | cases h

/-- All that one instruction cycle can do (30_encoding.md R95). -/
theorem State.runInstruction_cases (s : State) :
    (¬FetchOk s ∧ s.runInstruction = .next (s.halt .outOfRange s.pc (max s.pc.toNat Config.memSize))) ∨
    (FetchOk s ∧ (∃ i, decodeWord s.fetchedWord = .ok i ∧ s.runInstruction = exec i s.advance)) ∨
    (FetchOk s ∧ decodeWord s.fetchedWord = .error (.invalidOpcode s.fetchedWord) ∧
      s.runInstruction = .next (s.advance.reportInvalid s.fetchedWord s.pc)) := by
  by_cases h : FetchOk s
  · right
    cases hd : decodeWord s.fetchedWord with
    | ok i =>
      have hd' := hd
      simp only [State.fetchedWord] at hd'
      exact .inl ⟨h, i, rfl, by simp only [State.runInstruction, s.fetch_ok h, decodeBytes, hd']⟩
    | error e =>
      obtain rfl := decodeWord_error _ _ hd
      have hd' := hd
      simp only [State.fetchedWord] at hd'
      exact .inr ⟨h, rfl, by simp only [State.runInstruction, s.fetch_ok h, decodeBytes, hd', rejectedWord]; rfl⟩
  · exact .inl ⟨h, by simp only [State.runInstruction, s.fetch_out h]⟩

/-- A command that needs a machine, where one exists. -/
theorem State.onMachine_ok {s : State} (r : Result) (h : s.Exists) : s.onMachine r = r := by
  simp only [State.onMachine, show s.initResult = .ok from h]

/-- A command that needs a machine, where none exists. -/
theorem State.onMachine_none {s : State} (r : Result) (h : ¬s.Exists) : s.onMachine r = .fault .noMachine := by
  cases hi : s.initResult with
  | ok => exact absurd hi h
  | loadError _ => simp only [State.onMachine, hi]

/-- A command that needs a machine goes on only where one exists. -/
theorem State.onMachine_next {s t : State} {r : Result} (h : s.onMachine r = .next t) : s.Exists ∧ r = .next t := by
  by_cases he : s.Exists
  · exact ⟨he, State.onMachine_ok r he ▸ h⟩
  · rw [State.onMachine_none r he] at h
    cases h

theorem State.Exists.taken {s : State} (h : s.Exists) : s.taken.Exists := h

/-- A step is the pending command on the state without it. -/
theorem step_eq (s : State) : step s = s.taken.command s.pending := by
  obtain ⟨_, _, _, _, _, _, _, _, _, _, _, _, _, _, _, _, _, _, cs, _⟩ := s
  cases cs <;> rfl

/-- A STEP in Running is one instruction cycle (30_encoding.md R95). -/
theorem step_run (s : State) (h : RunsNext s) : step s = s.taken.runInstruction := by
  rw [step_eq, h.1, State.command, State.onMachine_ok _ (State.Exists.taken h.2.1), State.stepCommand,
    State.taken_execState, h.2.2]

end Sys2Proof.Machine
end

