-- ==== Sys2Proof/Laws/Commands.lean ====
section
/-! SUPPORT. What each command of the host can do (spec/60_exceptions.md R225 to R229, spec/70_reset_and_hazards.md
R250). -/

namespace Sys2Proof.Machine

/-- A timer after a TICK, as a number (60_exceptions.md R229). -/
theorem toNat_tickDown (t : Byte) : (tickDown t).toNat = t.toNat - 1 := by
  unfold tickDown
  split
  · subst t
    rfl
  · rename_i h
    have h0 : t.toNat ≠ 0 := fun e => h (BitVec.eq_of_toNat_eq e)
    have := t.isLt
    simp [BitVec.toNat_sub]
    omega

/-- The state a wait leaves when it captures (60_exceptions.md R226). -/
def State.captured (s : State) : State :=
  { (s.drawn.setReg s.kwX (BitVec.ofNat 8 (pickKey (Config.keyChoice s.draws) s.keysDown).val)) with
    execState := .running }

/-- All that the STEP of a wait can do (60_exceptions.md R226). -/
theorem State.awaitKey_cases (s : State) :
    (s.kwPrevAny = false ∧ s.anyKey = true ∧ s.awaitKey = s.captured) ∨
    ((s.kwPrevAny = true ∨ s.anyKey = false) ∧ s.awaitKey = { s with kwPrevAny := s.anyKey }) := by
  by_cases h : (!s.kwPrevAny && s.anyKey) = true
  · left
    have h' := h
    simp only [Bool.and_eq_true, Bool.not_eq_true'] at h'
    exact ⟨h'.1, h'.2, by unfold State.awaitKey; rw [if_pos h]; rfl⟩
  · right
    refine ⟨?_, by unfold State.awaitKey; rw [if_neg h]⟩
    cases hp : s.kwPrevAny <;> simp_all

/-- All that INIT can do (70_reset_and_hazards.md R250, R251). -/
theorem State.init_cases (s : State) (rom : List Byte) :
    (rom.length ≤ Config.romMax ∧ s.init rom = s.loaded rom) ∨
    (Config.romMax < rom.length ∧ s.init rom = s.discarded rom.length) := by
  by_cases h : Config.romMax < rom.length
  · exact .inr ⟨h, by simp [State.init, h]⟩
  · exact .inl ⟨by omega, by simp [State.init, h]⟩

/-- A byte the ROM covers reads as the ROM's after a load. -/
theorem State.readByte_loaded_in (s : State) (rom : List Byte) (h : rom.length ≤ Config.romMax) (j : Nat)
    (hj : j < rom.length) : (s.loaded rom).readByte (Config.progBase + j) = rom[j] :=
  Memory.read_writeBytes_in (m := []) rfl Config.progBase rom
    (by simp only [Config.romMax, Config.progBase, Config.memSize] at *; omega) j hj

/-- Every other byte reads as it does after a reset. -/
theorem State.readByte_loaded_out (s : State) (rom : List Byte) (a : Nat)
    (h : a < Config.progBase ∨ Config.progBase + rom.length ≤ a) :
    (s.loaded rom).readByte a = Memory.background s.params.font a :=
  Memory.read_writeBytes_out _ _ _ _ _ h

/-- PAUSE_TOGGLE changes the two execution states alone (60_exceptions.md R227). -/
theorem State.pauseToggle_frame (s : State) : SameBut [.execState, .resumeState] s s.pauseToggle := by
  intro p hp
  unfold State.pauseToggle
  cases s.execState <;> cases p <;> simp_all [Part.same, State.reg, State.readByte, State.pixel]

end Sys2Proof.Machine
end

