-- ==== Sys2Proof/Laws/PerInstr.lean ====
section
/-! SUPPORT. A family of statements over every instruction: its encoding matches its row of the opcode map
(spec/30_encoding.md R97). -/

/-- The word of the instruction matches the mask and pattern of its row (30_encoding.md R97). -/
def Sys2Proof.Laws.EncodeRow.Statement (i : Sys2Proof.Instr) : Prop :=
  (Sys2Proof.rowOf i).covers (Sys2Proof.encode i) = true

namespace Sys2Proof.Laws.EncodeRow

theorem covers_iff (r : OpRow) (w : Word) : r.covers w = true ↔ w &&& r.mask = r.pattern := by
  simp [OpRow.covers]

theorem cls : Statement .cls := rfl
theorem ret : Statement .ret := rfl
theorem jp (nnn : BitVec 12) : Statement (.jp nnn) := (covers_iff _ _).2 (packNNN_mask_op 0x1 nnn)
theorem call (nnn : BitVec 12) : Statement (.call nnn) := (covers_iff _ _).2 (packNNN_mask_op 0x2 nnn)
theorem seImm (x : RegIdx) (nn : Byte) : Statement (.seImm x nn) := (covers_iff _ _).2 (packXNN_mask_op 0x3 x nn)
theorem sneImm (x : RegIdx) (nn : Byte) : Statement (.sneImm x nn) := (covers_iff _ _).2 (packXNN_mask_op 0x4 x nn)
theorem seReg (x y : RegIdx) : Statement (.seReg x y) := (covers_iff _ _).2 (packXYN_mask_n 0x5 x y 0x0)
theorem ldImm (x : RegIdx) (nn : Byte) : Statement (.ldImm x nn) := (covers_iff _ _).2 (packXNN_mask_op 0x6 x nn)
theorem addImm (x : RegIdx) (nn : Byte) : Statement (.addImm x nn) := (covers_iff _ _).2 (packXNN_mask_op 0x7 x nn)
theorem ldReg (x y : RegIdx) : Statement (.ldReg x y) := (covers_iff _ _).2 (packXYN_mask_n 0x8 x y 0x0)
theorem orReg (x y : RegIdx) : Statement (.orReg x y) := (covers_iff _ _).2 (packXYN_mask_n 0x8 x y 0x1)
theorem andReg (x y : RegIdx) : Statement (.andReg x y) := (covers_iff _ _).2 (packXYN_mask_n 0x8 x y 0x2)
theorem xorReg (x y : RegIdx) : Statement (.xorReg x y) := (covers_iff _ _).2 (packXYN_mask_n 0x8 x y 0x3)
theorem addReg (x y : RegIdx) : Statement (.addReg x y) := (covers_iff _ _).2 (packXYN_mask_n 0x8 x y 0x4)
theorem subReg (x y : RegIdx) : Statement (.subReg x y) := (covers_iff _ _).2 (packXYN_mask_n 0x8 x y 0x5)
theorem shr (x y : RegIdx) : Statement (.shr x y) := (covers_iff _ _).2 (packXYN_mask_n 0x8 x y 0x6)
theorem subnReg (x y : RegIdx) : Statement (.subnReg x y) := (covers_iff _ _).2 (packXYN_mask_n 0x8 x y 0x7)
theorem shl (x y : RegIdx) : Statement (.shl x y) := (covers_iff _ _).2 (packXYN_mask_n 0x8 x y 0xE)
theorem sneReg (x y : RegIdx) : Statement (.sneReg x y) := (covers_iff _ _).2 (packXYN_mask_n 0x9 x y 0x0)
theorem ldI (nnn : BitVec 12) : Statement (.ldI nnn) := (covers_iff _ _).2 (packNNN_mask_op 0xA nnn)
theorem jpV0 (nnn : BitVec 12) : Statement (.jpV0 nnn) := (covers_iff _ _).2 (packNNN_mask_op 0xB nnn)
theorem rnd (x : RegIdx) (nn : Byte) : Statement (.rnd x nn) := (covers_iff _ _).2 (packXNN_mask_op 0xC x nn)
theorem drw (x y : RegIdx) (n : Nat) : Statement (.drw x y n) :=
  (covers_iff _ _).2 (packXYN_mask_op 0xD x y (BitVec.ofNat 4 n))
theorem skp (x : RegIdx) : Statement (.skp x) := (covers_iff _ _).2 (packXNN_mask_nn 0xE x 0x9E)
theorem sknp (x : RegIdx) : Statement (.sknp x) := (covers_iff _ _).2 (packXNN_mask_nn 0xE x 0xA1)
theorem ldVxDt (x : RegIdx) : Statement (.ldVxDt x) := (covers_iff _ _).2 (packXNN_mask_nn 0xF x 0x07)
theorem ldVxKey (x : RegIdx) : Statement (.ldVxKey x) := (covers_iff _ _).2 (packXNN_mask_nn 0xF x 0x0A)
theorem ldDtVx (x : RegIdx) : Statement (.ldDtVx x) := (covers_iff _ _).2 (packXNN_mask_nn 0xF x 0x15)
theorem ldStVx (x : RegIdx) : Statement (.ldStVx x) := (covers_iff _ _).2 (packXNN_mask_nn 0xF x 0x18)
theorem addIVx (x : RegIdx) : Statement (.addIVx x) := (covers_iff _ _).2 (packXNN_mask_nn 0xF x 0x1E)
theorem ldFont (x : RegIdx) : Statement (.ldFont x) := (covers_iff _ _).2 (packXNN_mask_nn 0xF x 0x29)
theorem ldBcd (x : RegIdx) : Statement (.ldBcd x) := (covers_iff _ _).2 (packXNN_mask_nn 0xF x 0x33)
theorem storeRegs (x : RegIdx) : Statement (.storeRegs x) := (covers_iff _ _).2 (packXNN_mask_nn 0xF x 0x55)
theorem loadRegs (x : RegIdx) : Statement (.loadRegs x) := (covers_iff _ _).2 (packXNN_mask_nn 0xF x 0x65)

end Sys2Proof.Laws.EncodeRow
end

