-- ==== Sys2Proof/Tests/Slice0.lean ====
section
/-! SUPPORT. The model's own tests: ill-formed terms refused, words written out from the encodings of spec/30_encoding.md
R97, one-step vectors of spec/95_test_vectors.md (the vector's number stands beside each), and a witness for the
hypotheses of every statement that has some. -/

namespace Sys2Proof.Tests

open Sys2Proof Sys2Proof.Machine

/-! ### Helpers -/

/-- The conventions of 95_test_vectors.md: everything 0, PC 0x200, Running, STACK_DEPTH 16, the default FONT. -/
def base : State := State.resetWith { stackDepth := 16, font := Config.defaultFont }

/-- One step answers a next state that `p` holds of. -/
def after (s : State) (p : State → Bool) : Bool :=
  match step s with
  | .next t => p t
  | .fault _ => false
  | .refused _ => false

/-- One step of the word `w` from `s`. -/
def run (w : Nat) (s : State) (p : State → Bool) : Bool := after (s.withFetchWord 16 w) p

/-- One command of the host from `s`. -/
def give (c : Command) (s : State) (p : State → Bool) : Bool := after { s with commands := [c] } p

theorem exists_of_after {s : State} {p : State → Bool} (h : after s p = true) :
    ∃ t, step s = .next t ∧ p t = true := by
  unfold after at h
  split at h
  · exact ⟨_, by assumption, h⟩
  · cases h
  · cases h

/-- Keys that are down, by index. -/
def keysOf (f : Fin 16 → Bool) : Keypad := Vector.ofFn f

/-- Every pixel is as `f` says. -/
def shows (t : State) (f : Nat → Nat → Bool) : Bool :=
  (List.range 64).all fun x => (List.range 32).all fun y =>
    (t.pixel (Fin.ofNat 64 x) (Fin.ofNat 32 y)) == f x y

/-- `s` with one pixel on. -/
def lit (x : Fin 64) (y : Fin 32) (s : State) : State := { s with disp := s.disp.flip x y }

/-! ### Well-formedness: a term no word encodes is refused -/

theorem test_wf_draw_sixteen_rows_refused : (Instr.drw 0 0 16).wellFormed = false := by decide
theorem test_wf_draw_fifteen_rows_accepted : (Instr.drw 0 0 15).wellFormed = true := by decide

/-! ### Decoding: words written out from the patterns of 30_encoding.md R97 -/

/-- Unit 0x0: 0000 0000 1110 0000, and 00EE. -/
theorem test_decode_unit0 :
    decodeWord 0b0000000011100000#16 = .ok .cls ∧ decodeWord 0b0000000011101110#16 = .ok .ret := by decide

/-- Units 0x1 and 0x2: op 0001 then NNN, op 0010 then NNN. -/
theorem test_decode_jump_call :
    decodeWord 0b0001001000110100#16 = .ok (.jp 0x234#12) ∧
    decodeWord 0b0010101010111100#16 = .ok (.call 0xABC#12) := by decide

/-- Units 0x3, 0x4, 0x6, 0x7: op, X, NN. -/
theorem test_decode_immediates :
    decodeWord 0b0011001100010000#16 = .ok (.seImm 3 0x10#8) ∧
    decodeWord 0b0100101110000000#16 = .ok (.sneImm 11 0x80#8) ∧
    decodeWord 0b0110101010011100#16 = .ok (.ldImm 10 0x9C#8) ∧
    decodeWord 0b0111000111111111#16 = .ok (.addImm 1 0xFF#8) := by decide

/-- Units 0x5 and 0x9: op, X, Y, 0000. -/
theorem test_decode_register_skips :
    decodeWord 0b0101000100100000#16 = .ok (.seReg 1 2) ∧
    decodeWord 0b1001110011010000#16 = .ok (.sneReg 12 13) := by decide

/-- Unit 0x8: op 1000, X, Y, selector 0 to 3. -/
theorem test_decode_logic :
    decodeWord 0b1000000100100000#16 = .ok (.ldReg 1 2) ∧
    decodeWord 0b1000001101000001#16 = .ok (.orReg 3 4) ∧
    decodeWord 0b1000010101100010#16 = .ok (.andReg 5 6) ∧
    decodeWord 0b1000011110000011#16 = .ok (.xorReg 7 8) := by decide

/-- Unit 0x8: selectors 4 to 7 and E. -/
theorem test_decode_arithmetic :
    decodeWord 0b1000100110100100#16 = .ok (.addReg 9 10) ∧
    decodeWord 0b1000000100100101#16 = .ok (.subReg 1 2) ∧
    decodeWord 0b1000101010110110#16 = .ok (.shr 10 11) ∧
    decodeWord 0b1000111100010111#16 = .ok (.subnReg 15 1) ∧
    decodeWord 0b1000000111111110#16 = .ok (.shl 1 15) := by decide

/-- Units 0xA to 0xD. -/
theorem test_decode_index_jump_random_draw :
    decodeWord 0b1010111111111111#16 = .ok (.ldI 0xFFF#12) ∧
    decodeWord 0b1011010111111110#16 = .ok (.jpV0 0x5FE#12) ∧
    decodeWord 0b1100001100001111#16 = .ok (.rnd 3 0x0F#8) ∧
    decodeWord 0b1101000100101111#16 = .ok (.drw 1 2 15) := by decide

/-- Unit 0xE: op 1110, X, 9E or A1. -/
theorem test_decode_key_skips :
    decodeWord 0b1110010110011110#16 = .ok (.skp 5) ∧
    decodeWord 0b1110010110100001#16 = .ok (.sknp 5) := by decide

/-- Unit 0xF: op 1111, X, then 07, 0A, 15, 18, 1E. -/
theorem test_decode_timers_key_index :
    decodeWord 0b1111001100000111#16 = .ok (.ldVxDt 3) ∧
    decodeWord 0b1111001000001010#16 = .ok (.ldVxKey 2) ∧
    decodeWord 0b1111001000010101#16 = .ok (.ldDtVx 2) ∧
    decodeWord 0b1111101000011000#16 = .ok (.ldStVx 10) ∧
    decodeWord 0b1111010000011110#16 = .ok (.addIVx 4) := by decide

/-- Unit 0xF: 29, 33, 55, 65. -/
theorem test_decode_font_digits_block :
    decodeWord 0b1111000100101001#16 = .ok (.ldFont 1) ∧
    decodeWord 0b1111010100110011#16 = .ok (.ldBcd 5) ∧
    decodeWord 0b1111000101010101#16 = .ok (.storeRegs 1) ∧
    decodeWord 0b1111001001100101#16 = .ok (.loadRegs 2) := by decide

/-- Words the vectors call invalid (C.11, C.12, C.13, S.5, A.27, A.28, J.2, K.6, F.23): one in every clause of the
statement that lists the invalid words. -/
theorem test_decode_invalid :
    [0x0123#16, 0x01E0, 0x0000, 0x5121, 0x8128, 0x812F, 0x9121, 0xE5A2, 0xF000].map decodeWord =
      [0x0123#16, 0x01E0, 0x0000, 0x5121, 0x8128, 0x812F, 0x9121, 0xE5A2, 0xF000].map
        (fun w => .error (.invalidOpcode w)) := by decide

/-- The bytes of a word stand high byte first (20_memory.md R70), and what follows is left over. -/
theorem test_decode_bytes : decodeBytes [0xD0, 0x15, 0xAA] = .ok (.drw 0 1 5, [0xAA]) := by decide

theorem test_decode_truncated : decodeBytes [0xD0] = .error .truncated := by decide

/-! ### Steps of units 0x0 to 0x2 -/

/-- C.1. -/
theorem test_cls : run 0x00E0 (lit 0 0 (lit 63 31 base))
    (fun t => shows t (fun _ _ => false) && t.pc == 0x202) = true := by decide

/-- C.2: a = 0x212. -/
theorem test_ret : run 0x00EE { base.setPc 0x212 with sp := 1, stack := 0x206 :: List.replicate 15 0 }
    (fun t => t.pc == 0x206 && t.sp == 0) = true := by decide

/-- C.3: a = 0x300. -/
theorem test_ret_underflow : run 0x00EE (base.setPc 0x300)
    (fun t => t.execState == .halted && t.haltCause.code == 2 && t.pc == 0x302 && t.sp == 0 &&
      t.reports == [.halt .stackUnderflow 0x300 0]) = true := by decide

/-- C.4. -/
theorem test_jp : run 0x1234 base (fun t => t.pc == 0x234) = true := by decide

/-- C.8: a = 0x204. -/
theorem test_call : run 0x2210 (base.setPc 0x204)
    (fun t => t.stack.head? == some 0x206 && t.sp == 1 && t.pc == 0x210) = true := by decide

/-- C.9: the stack is full. -/
theorem test_call_overflow : run 0x2300 { base with sp := 16 }
    (fun t => t.execState == .halted && t.haltCause.code == 1 && t.pc == 0x202 && t.sp == 16 &&
      t.stack == base.stack && t.reports == [.halt .stackOverflow 0x200 0]) = true := by decide

/-! ### Steps of units 0x3 to 0x7 and 0x9 -/

/-- L1.1. -/
theorem test_seImm : run 0x3310 (base.setReg 3 0x10) (fun t => t.pc == 0x204) = true ∧
    run 0x3310 (base.setReg 3 0x11) (fun t => t.pc == 0x202) = true := by decide

/-- S.6: a skip to 0x1000 is no error yet. -/
theorem test_seImm_end : run 0x3000 (base.setPc 0xFFC)
    (fun t => t.pc == 0x1000 && t.execState == .running) = true := by decide

/-- L1.2. -/
theorem test_sneImm : run 0x4310 (base.setReg 3 0x11) (fun t => t.pc == 0x204) = true ∧
    run 0x4310 (base.setReg 3 0x10) (fun t => t.pc == 0x202) = true := by decide

/-- L1.3. -/
theorem test_seReg : run 0x5120 ((base.setReg 1 0x7F).setReg 2 0x7F) (fun t => t.pc == 0x204) = true ∧
    run 0x5120 ((base.setReg 1 0x7F).setReg 2 0x7E) (fun t => t.pc == 0x202) = true := by decide

/-- L1.4. -/
theorem test_sneReg : run 0x9120 ((base.setReg 1 0x01).setReg 2 0x02) (fun t => t.pc == 0x204) = true ∧
    run 0x9120 ((base.setReg 1 0x02).setReg 2 0x02) (fun t => t.pc == 0x202) = true := by decide

/-- S.7, S.8. -/
theorem test_ldImm : run 0x6A9C base (fun t => t.reg 10 == 0x9C && t.pc == 0x202) = true ∧
    run 0x6FAB base (fun t => t.reg 15 == 0xAB) = true := by decide

/-- S.9, S.11: no carry anywhere. -/
theorem test_addImm : run 0x7102 (base.setReg 1 0xFF) (fun t => t.reg 1 == 0x01 && t.reg 15 == 0x00) = true ∧
    run 0x7F80 (base.setReg 15 0x80) (fun t => t.reg 15 == 0x00) = true := by decide

/-! ### Steps of unit 0x8 -/

/-- A.1. -/
theorem test_ldReg : run 0x8120 (base.setReg 2 0x33) (fun t => t.reg 1 == 0x33 && t.reg 2 == 0x33) = true := by decide

/-- A.2. -/
theorem test_orReg : run 0x8121 (((base.setReg 1 0xF0).setReg 2 0x0C).setReg 15 0x05)
    (fun t => t.reg 1 == 0xFC && t.reg 15 == 0x05) = true := by decide

/-- A.3. -/
theorem test_andReg : run 0x8122 ((base.setReg 1 0xF0).setReg 2 0x3C) (fun t => t.reg 1 == 0x30) = true := by decide

/-- A.4. -/
theorem test_xorReg : run 0x8123 ((base.setReg 1 0xF0).setReg 2 0x3C) (fun t => t.reg 1 == 0xCC) = true := by decide

/-- L1.6, A.7. -/
theorem test_addReg : run 0x8124 ((base.setReg 1 0xFF).setReg 2 0x01)
      (fun t => t.reg 1 == 0x00 && t.reg 15 == 0x01) = true ∧
    run 0x8124 ((base.setReg 1 0x7F).setReg 2 0x80) (fun t => t.reg 1 == 0xFF && t.reg 15 == 0x00) = true := by decide

/-- A.8: with X = F the sum stands, not the carry. -/
theorem test_addReg_vF : run 0x8F14 ((base.setReg 15 0xFF).setReg 1 0x01) (fun t => t.reg 15 == 0x00) = true := by
  decide

/-- L1.8, A.11. -/
theorem test_subReg : run 0x8125 ((base.setReg 1 0x05).setReg 2 0x0A)
      (fun t => t.reg 1 == 0xFB && t.reg 15 == 0x00) = true ∧
    run 0x8125 ((base.setReg 1 0x07).setReg 2 0x07) (fun t => t.reg 1 == 0x00 && t.reg 15 == 0x01) = true := by decide

/-- A.13, A.14: VF is read after the flag is written. -/
theorem test_subReg_vF : run 0x81F5 (base.setReg 1 0x10) (fun t => t.reg 1 == 0x0F && t.reg 15 == 0x01) = true ∧
    run 0x8F15 ((base.setReg 15 0x05).setReg 1 0x03) (fun t => t.reg 15 == 0xFE) = true := by decide

/-- A.16: V7 is not read. -/
theorem test_shr : run 0x8176 ((base.setReg 1 0x05).setReg 7 0x99)
    (fun t => t.reg 1 == 0x02 && t.reg 15 == 0x01 && t.reg 7 == 0x99) = true := by decide

/-- A.18. -/
theorem test_shr_vF : run 0x8F06 (base.setReg 15 0x03) (fun t => t.reg 15 == 0x00) = true := by decide

/-- A.20. -/
theorem test_subnReg : run 0x8127 ((base.setReg 1 0x0A).setReg 2 0x05)
    (fun t => t.reg 1 == 0xFB && t.reg 15 == 0x00) = true := by decide

/-- A.21, A.22. -/
theorem test_subnReg_vF : run 0x81F7 ((base.setReg 1 0x02).setReg 15 0x05)
      (fun t => t.reg 1 == 0xFF && t.reg 15 == 0x01) = true ∧
    run 0x8F17 ((base.setReg 15 0x05).setReg 1 0x03) (fun t => t.reg 15 == 0x03) = true := by decide

/-- A.23. -/
theorem test_shl : run 0x810E (base.setReg 1 0x81) (fun t => t.reg 1 == 0x02 && t.reg 15 == 0x01) = true := by decide

/-- A.25, A.26. -/
theorem test_shl_vF : run 0x8F0E (base.setReg 15 0x81) (fun t => t.reg 15 == 0x02) = true ∧
    run 0x8F0E (base.setReg 15 0x40) (fun t => t.reg 15 == 0x00) = true := by decide

/-! ### Steps of units 0xA to 0xC -/

/-- J.3. -/
theorem test_ldI : run 0xAFFF base (fun t => t.idx == 0x0FFF) = true := by decide

/-- J.6: V0, not V5; an odd target. -/
theorem test_jpV0 : run 0xB5FE ((base.setReg 0 0x01).setReg 5 0x77) (fun t => t.pc == 0x05FF) = true := by decide

/-- J.5: no wrap at 12 bits. -/
theorem test_jpV0_past_memory : run 0xBF80 (base.setReg 0 0xFF)
    (fun t => t.pc == 0x107F && t.execState == .running) = true := by decide

/-- J.8: whatever byte is drawn. -/
theorem test_rnd_zero_mask : ∃ t, step ((base.setReg 3 0x55).withFetchWord 16 0xC300) = .next t ∧
    t.reg 3 = Config.randomByte 0 &&& 0x00 ∧ t.draws = 1 := ⟨_, rfl, rfl, rfl⟩

/-! ### Steps of unit 0xD -/

/-- D.1: clipped at the right. -/
theorem test_drw_clip : run 0xD011 (((base.setReg 0 0x3C).setIdx 0x300).writeBytes 0x300 [0xFF])
    (fun t => shows t (fun x y => decide (60 ≤ x) && y == 0) && t.reg 15 == 0x00) = true := by decide

/-- D.8 and D.6: a collision; VF read as the origin before it is written. -/
theorem test_drw_collision : run 0xD011 (((lit 1 0 base).setIdx 0x300).writeBytes 0x300 [0x40])
      (fun t => shows t (fun _ _ => false) && t.reg 15 == 0x01) = true ∧
    run 0xDF11 (((base.setReg 15 0x05).setIdx 0x300).writeBytes 0x300 [0xC0])
      (fun t => shows t (fun x y => (x == 5 || x == 6) && y == 0) && t.reg 15 == 0x00) = true := by decide

/-! ### Steps of unit 0xE -/

/-- K.1, K.2. -/
theorem test_skp : run 0xE59E ((base.setReg 5 0x0A).setKeys (keysOf (· == 10))) (fun t => t.pc == 0x204) = true ∧
    run 0xE59E (base.setReg 5 0x0A) (fun t => t.pc == 0x202) = true := by decide

/-- K.3, K.4. -/
theorem test_sknp : run 0xE5A1 (base.setReg 5 0x0A) (fun t => t.pc == 0x204) = true ∧
    run 0xE5A1 ((base.setReg 5 0x0A).setKeys (keysOf (· == 10))) (fun t => t.pc == 0x202) = true := by decide

/-! ### Steps of unit 0xF -/

/-- F.1. -/
theorem test_ldVxDt : run 0xF307 (base.setDt 0x3C) (fun t => t.reg 3 == 0x3C && t.dt == 0x3C) = true := by decide

/-- F.2, its first STEP: key 4 is down. -/
theorem test_ldVxKey : run 0xF20A (base.setKeys (keysOf (· == 4)))
    (fun t => t.execState == .awaitingKey && t.kwX == 2 && t.kwPrevAny && t.pc == 0x202 && t.reg 2 == 0) = true := by
  decide

/-- F.5. -/
theorem test_ldDtVx : run 0xF215 (base.setReg 2 0x05) (fun t => t.dt == 0x05 && t.st == 0) = true := by decide

/-- F.6, its STEP. -/
theorem test_ldStVx : run 0xF218 (base.setReg 2 0x02) (fun t => t.st == 0x02 && t.dt == 0 && t.soundOn) = true := by
  decide

/-- F.9: the sum wraps at 16 bits. -/
theorem test_addIVx : run 0xF41E ((base.setIdx 0xFFF0).setReg 4 0x20) (fun t => t.idx == 0x0010) = true := by decide

/-- F.8: a sum past memory is no error. -/
theorem test_addIVx_past_memory : run 0xF41E ((base.setIdx 0x0FFF).setReg 4 0x01)
    (fun t => t.idx == 0x1000 && t.execState == .running) = true := by decide

/-- F.10, F.12. -/
theorem test_ldFont : run 0xF129 (base.setReg 1 0x0A) (fun t => t.idx == 0x0032) = true ∧
    run 0xF129 (base.setReg 1 0xFF) (fun t => t.idx == 0x04FB) = true := by decide

/-- L1.10. -/
theorem test_ldBcd : run 0xF533 ((base.setReg 5 0xEA).setIdx 0x300)
    (fun t => t.readBytes 0x300 3 == [0x02, 0x03, 0x04] && t.idx == 0x300) = true := by decide

/-- F.15: nothing is written. -/
theorem test_ldBcd_out_of_range : run 0xF533 (((base.setReg 5 0x07).setIdx 0xFFE).writeBytes 0xFFE [0x11])
    (fun t => t.execState == .halted && t.haltCause.code == 3 && t.pc == 0x202 && t.readByte 0xFFE == 0x11 &&
      t.reports == [.halt .outOfRange 0x200 0x1000]) = true := by decide

/-- F.16. -/
theorem test_storeRegs : run 0xF155 (((base.setReg 0 0x11).setReg 1 0x22).setIdx 0x300)
    (fun t => t.readBytes 0x300 3 == [0x11, 0x22, 0x00] && t.idx == 0x300) = true := by decide

/-- F.17, F.18: the last byte of memory, and one past it. -/
theorem test_storeRegs_end : run 0xF055 ((base.setReg 0 0x33).setIdx 0xFFF) (fun t => t.readByte 0xFFF == 0x33) = true ∧
    run 0xF155 (((base.setReg 0 0x33).setReg 1 0x44).setIdx 0xFFF)
      (fun t => t.execState == .halted && t.readByte 0xFFF == 0x00 &&
        t.reports == [.halt .outOfRange 0x200 0x1000]) = true := by decide

/-- F.20. -/
theorem test_loadRegs : run 0xF265 (((base.setReg 3 0x99).setIdx 0x300).writeBytes 0x300 [0x01, 0x05, 0x06, 0x07])
    (fun t => t.reg 0 == 0x01 && t.reg 1 == 0x05 && t.reg 2 == 0x06 && t.reg 3 == 0x99 && t.idx == 0x300) = true := by
  decide

/-- F.22. -/
theorem test_loadRegs_out_of_range : run 0xF065 ((base.setReg 0 0x77).setIdx 0x1000)
    (fun t => t.execState == .halted && t.reg 0 == 0x77 && t.reports == [.halt .outOfRange 0x200 0x1000]) = true := by
  decide

/-! ### Invalid words, fetch, commands -/

/-- S.5: no skip. -/
theorem test_invalid_word : run 0x5121 ((base.setReg 1 0x7F).setReg 2 0x7F)
    (fun t => t.pc == 0x202 && t.reports == [.invalidOpcode 0x5121 0x200] && t.execState == .running) = true := by
  decide

/-- C.6, its second STEP: PC = 0xFFF. -/
theorem test_fetch_out_of_range : after (base.setPc 0xFFF)
    (fun t => t.execState == .halted && t.haltCause.code == 3 && t.pc == 0xFFF &&
      t.reports == [.halt .outOfRange 0xFFF 0x1000]) = true := by decide

/-- F.3's kind, with one key: L1.12, STEP 4. -/
theorem test_wait_captures : after ({ base with execState := .awaitingKey, kwX := 3 }.setKeys (keysOf (· == 7)))
    (fun t => t.reg 3 == 0x07 && t.execState == .running && t.pc == 0x200) = true := by decide

/-- E.1, its first command, and F.4's: which state is remembered. -/
theorem test_pause : give .pauseToggle base (fun t => t.execState == .paused && t.resumeState == .running) = true ∧
    give .pauseToggle { base with execState := .awaitingKey }
      (fun t => t.execState == .paused && t.resumeState == .awaitingKey) = true := by decide

/-- E.2: TICK in Halted; E.5: a timer stays at 0. -/
theorem test_tick : give .tick { base with dt := 0x03, execState := .halted, haltCause := .stackUnderflow }
    (fun t => t.dt == 0x02 && t.st == 0x00 && t.execState == .halted) = true := by decide

/-- E.3: a new machine from Halted. -/
theorem test_init : give (.init [0x12, 0x00]) { base with execState := .halted, haltCause := .outOfRange, pc := 0x107F }
    (fun t => t.execState == .running && t.pc == 0x200 && t.readBytes 0x200 3 == [0x12, 0x00, 0x00] &&
      t.haltCause.code == 0) = true := by decide

theorem init_long (s : State) (b : Byte) {n : Nat} (h : 3584 < n) : s.init (List.replicate n b) = s.discarded n := by
  unfold State.init
  rw [List.length_replicate]
  exact if_pos h

/-- L1.13: 3585 bytes fail, and no machine exists. -/
theorem test_init_oversized : (base.init (List.replicate 3585 0xAA)).initResult = .loadError 3585 ∧
    (base.init (List.replicate 3585 0xAA)).initResult.code = 5 := by
  rw [init_long base 0xAA (by decide)]
  exact ⟨rfl, rfl⟩

/-- 60_exceptions.md R224, its first row: INIT where no machine exists, as after that LoadError. -/
theorem test_init_after_load_error : give (.init [0x12, 0x00]) (base.discarded 3585)
    (fun t => t.initResult == .ok && t.execState == .running && t.readBytes 0x200 2 == [0x12, 0x00]) = true := by decide

/-- D.7's glyph: the first row of the default font (10_state.md R52). -/
theorem test_font : base.readBytes 0x000 5 = [0xF0, 0x90, 0x90, 0x90, 0xF0] ∧
    base.readBytes 0x04B 6 = [0xF0, 0x80, 0xF0, 0x80, 0x80, 0x00] := by decide

/-! ### Witnesses: for every statement with hypotheses, concrete states and operands that meet them, at the boundary of
each clause -/

/-- `base` with its stack as deep as `n`, for a capacity of `d` entries. -/
def stacked (d n : Nat) : State :=
  { State.resetWith { stackDepth := d, font := Config.defaultFont } with sp := BitVec.ofNat 16 n }

/-- `base` with the next word at 0xFFE, the last address a fetch may read. -/
def atEnd (w : Nat) : State := (base.setPc 0xFFE).withFetchWord 16 w

def halted : State := { base with execState := .halted, haltCause := .stackUnderflow }
def paused : State := { base with execState := .paused, resumeState := .awaitingKey }
def waiting (held : Bool) (f : Fin 16 → Bool) : State :=
  { base with execState := .awaitingKey, kwX := 15, kwPrevAny := held }.setKeys (keysOf f)
def waitingUp : State := waiting false (fun _ => false)
/-- What the failed INIT of L1.13 leaves. -/
def noMachine : State := base.discarded 3585
def commanded (c : Command) (s : State) : State := { s with commands := [c] }

theorem witness_DecodeOfEncodeIsTheInstruction : (Instr.drw 15 15 15).wellFormed = true := by decide

theorem witness_EncodeOfDecodeIsTheWord : decodeWord 0xDFFF#16 = .ok (.drw 15 15 15) := by decide

theorem witness_DecodesExactlyTheWordsOfTheMap :
    decodeWord 0xFF65#16 = .ok (.loadRegs 15) ∧ rowOf (.loadRegs 15) ∈ opcodeMap ∧
      (rowOf (.loadRegs 15)).covers 0xFF65#16 = true := by decide

/-- A return from one entry and from a full stack, and the empty stack. -/
theorem witness_ReturnPopsOrUnderflows :
    (StackOk (stacked 16 1) ∧ (stacked 16 1).sp ≠ 0) ∧ (StackOk (stacked 16 16) ∧ (stacked 16 16).sp ≠ 0) ∧
      base.sp = 0 := by
  unfold StackOk; decide

/-- The last free entry, for capacities 12 and 16, and the full stack. -/
theorem witness_CallPushesOrOverflows :
    ((stacked 12 11).params.Ok ∧ StackOk (stacked 12 11) ∧
      (stacked 12 11).sp.toNat < (stacked 12 11).params.stackDepth) ∧
    ((stacked 16 15).params.Ok ∧ StackOk (stacked 16 15) ∧
      (stacked 16 15).sp.toNat < (stacked 16 15).params.stackDepth) ∧
    (stacked 12 12).sp.toNat = (stacked 12 12).params.stackDepth := by
  unfold StackOk Params.Ok; decide

/-- The state right after the call is such a `u`. -/
theorem witness_CallThenReturnComesBack :
    ((stacked 12 11).params.Ok ∧ StackOk (stacked 12 11) ∧
      (stacked 12 11).sp.toNat < (stacked 12 11).params.stackDepth) ∧
    ∃ t u : State, exec (.call 0x300#12) (stacked 12 11) = .next t ∧ u.sp = t.sp ∧ u.stack = t.stack := by
  refine ⟨?_, _, _, rfl, rfl, rfl⟩
  unfold StackOk Params.Ok; decide

theorem witness_TwelveCallsAlwaysFit :
    (stacked 12 11).params.Ok ∧ StackOk (stacked 12 11) ∧ (stacked 12 11).sp.toNat < 12 := by
  unfold StackOk Params.Ok; decide

/-- For the clauses on registers of AddSetsCarry, SubtractSetsNoBorrow, ShiftsByOneBit and the loads: destinations that
are VF and that are not, and registers that are neither. -/
theorem witness_destinations : (14 : RegIdx) ≠ vF ∧ (15 : RegIdx) = vF ∧ (0 : RegIdx) ≠ 14 ∧ (0 : RegIdx) ≠ vF := by
  decide

/-- Fifteen rows that end at the end of memory, and no rows with I past it. -/
theorem witness_DrawInvertsTheSpritePixels :
    (15 ≤ 15 ∧ (15 = 0 ∨ (base.setIdx 0xFF1).indexAddr + 15 ≤ 4096)) ∧
      (0 ≤ 15 ∧ (0 = 0 ∨ (base.setIdx 0xFFFF).indexAddr + 0 ≤ 4096)) := by decide

/-- The 8 × 1 sprite of L1.11 at the end of memory, on a clear display. -/
def spriteAtEnd : State := (base.setIdx 0xFFF).writeBytes 0xFFF [0x80]

theorem witness_DrawTwiceRestoresTheDisplay :
    1 ≤ 15 ∧ (0 : RegIdx) ≠ vF ∧ (14 : RegIdx) ≠ vF ∧ (1 = 0 ∨ spriteAtEnd.indexAddr + 1 ≤ 4096) ∧
      (∃ px py, spriteAtEnd.spriteBit 0 14 1 px py = true) ∧
      ∀ px py, spriteAtEnd.spriteBit 0 14 1 px py = true → spriteAtEnd.pixel px py = false :=
  ⟨by decide, by decide, by decide, by decide, ⟨0, 0, by decide⟩, fun px py _ => Display.pixel_blank px py⟩

/-- The last key, up and down. -/
theorem witness_KeySkips : ((base.setReg 5 15).reg 5).toNat = (15 : Fin 16).val ∧
    ((base.setReg 5 15).setKeys (keysOf (· == 15))).key 15 = true ∧ (base.setReg 5 15).key 15 = false := by decide

/-- The first index off the keypad, and the last. -/
theorem witness_KeySkipsOffTheKeypadAreFree :
    16 ≤ ((base.setReg 5 0x10).reg 5).toNat ∧ 16 ≤ ((base.setReg 5 0xFF).reg 5).toNat := by decide

/-- Three bytes that end at the end of memory, and one address further. -/
theorem witness_DigitsAreStored :
    (MemoryOk (base.setIdx 0xFFD) ∧ (base.setIdx 0xFFD).indexAddr + 3 ≤ 4096) ∧
      4096 < (base.setIdx 0xFFE).indexAddr + 3 := by
  unfold MemoryOk; decide

/-- One and sixteen registers that end at the end of memory, and one address further; the clauses of
RegistersAreLoaded ask no more. -/
theorem witness_RegistersAreStored_Loaded :
    (MemoryOk (base.setIdx 0xFFF) ∧ (base.setIdx 0xFFF).indexAddr + ((0 : RegIdx).val + 1) ≤ 4096) ∧
    (MemoryOk (base.setIdx 0xFF0) ∧ (base.setIdx 0xFF0).indexAddr + ((15 : RegIdx).val + 1) ≤ 4096) ∧
    4096 < (base.setIdx 0x1000).indexAddr + ((0 : RegIdx).val + 1) ∧
    4096 < (base.setIdx 0xFF1).indexAddr + ((15 : RegIdx).val + 1) := by
  unfold MemoryOk; decide

/-- V0, V1 hold 6A9C and PC = I = 0xFFE. -/
def storesCode : State := (((base.setReg 0 0x6A).setReg 1 0x9C).setPc 0xFFE).setIdx 0xFFE

theorem witness_StoredCodeIsWhatRunsNext :
    MemoryOk storesCode ∧ RunsNext storesCode ∧ 1 ≤ (1 : RegIdx).val ∧ storesCode.pc = storesCode.idx ∧
      storesCode.indexAddr + ((1 : RegIdx).val + 1) ≤ 4096 ∧
      decodeWord (Word.ofBytes (storesCode.reg 0) (storesCode.reg 1)) = .ok (.ldImm 10 0x9C#8) := by
  unfold MemoryOk RunsNext State.Exists; decide

/-- The last address in memory and the first past it as the lowest bad one, for every form. -/
theorem witness_OutOfRangeAccessHalts :
    (15 ≠ 0 ∧ 4096 < (base.setIdx 0xFF2).indexAddr + 15) ∧ (1 ≠ 0 ∧ 4096 < (base.setIdx 0x1000).indexAddr + 1) ∧
      4096 < (base.setIdx 0xFFE).indexAddr + 3 ∧ 4096 < (base.setIdx 0xFFFF).indexAddr + 3 ∧
      4096 < (base.setIdx 0xFFF).indexAddr + ((1 : RegIdx).val + 1) := by decide

/-- The first PC whose fetch is out of range, and the last PC a run can reach. -/
theorem witness_FetchOutOfRangeHalts :
    (RunsNext (base.setPc 0xFFF) ∧ 4096 < (base.setPc 0xFFF).pc.toNat + 2) ∧
      (RunsNext (base.setPc 0x10FE) ∧ 4096 < (base.setPc 0x10FE).pc.toNat + 2) := by
  unfold RunsNext State.Exists; decide

theorem witness_InvalidWordIsAReportedNoOp :
    RunsNext (atEnd 0x5121) ∧ FetchOk (atEnd 0x5121) ∧
      decodeWord (atEnd 0x5121).fetchedWord = .error (.invalidOpcode (atEnd 0x5121).fetchedWord) := by
  unfold RunsNext State.Exists FetchOk; decide

/-- A fetch out of range, and a return on an empty stack at the last address. -/
theorem witness_FatalErrorsArePrecise :
    (RunsNext (base.setPc 0xFFF) ∧ ∃ t, step (base.setPc 0xFFF) = .next t ∧ decide (t.execState = .halted) = true) ∧
      RunsNext (atEnd 0x00EE) ∧ ∃ t, step (atEnd 0x00EE) = .next t ∧ decide (t.execState = .halted) = true :=
  ⟨⟨by unfold RunsNext State.Exists; decide, exists_of_after (by decide)⟩, by unfold RunsNext State.Exists; decide, exists_of_after (by decide)⟩

theorem witness_StepRunsTheDecodedInstruction :
    RunsNext (atEnd 0x6A9C) ∧ FetchOk (atEnd 0x6A9C) ∧
      decodeWord (atEnd 0x6A9C).fetchedWord = .ok (.ldImm 10 0x9C#8) := by
  unfold RunsNext State.Exists FetchOk; decide

/-- An instruction that completes and one that halts. -/
theorem witness_InstructionsWriteOnlyWhatTheyList :
    (∃ t, exec (.ldImm 3 0x10#8) base = .next t) ∧ ∃ t, exec .ret base = .next t ∧ t.execState = .halted :=
  ⟨⟨_, rfl⟩, _, rfl, rfl⟩

theorem witness_OnlyListedRegistersChange :
    (∃ t, exec (.addReg 3 4) base = .next t) ∧ (Instr.addReg 3 4).writesReg 14 = false ∧
      (Instr.loadRegs 14).writesReg 15 = false := ⟨⟨_, rfl⟩, by decide, by decide⟩

/-- INIT, 00E0 and DXYN each change a pixel. -/
theorem witness_OnlyClearAndDrawChangeTheDisplay :
    (∃ t, step (commanded (.init []) (lit 63 31 base)) = .next t ∧ (t.pixel 63 31 != true) = true) ∧
    (∃ t, step ((lit 63 31 base).withFetchWord 16 0x00E0) = .next t ∧ (t.pixel 63 31 != true) = true) ∧
    ∃ t, step (spriteAtEnd.withFetchWord 16 0xD011) = .next t ∧ (t.pixel 0 0 != false) = true :=
  ⟨exists_of_after (by decide), exists_of_after (by decide), exists_of_after (by decide)⟩

/-- INIT, FX33 and FX55 each change the last byte of memory, or the first of the program. -/
theorem witness_OnlyStoresChangeMemory :
    (∃ t, step (commanded (.init [0xAA]) base) = .next t ∧ (t.readByte 0x200 != 0) = true) ∧
    (∃ t, step (((base.setReg 5 0x07).setIdx 0xFFD).withFetchWord 16 0xF533) = .next t ∧
      (t.readByte 0xFFF != 0) = true) ∧
    ∃ t, step (((base.setReg 1 0x44).setIdx 0xFFE).withFetchWord 16 0xF155) = .next t ∧
      (t.readByte 0xFFF != 0) = true :=
  ⟨exists_of_after (by decide), exists_of_after (by decide), exists_of_after (by decide)⟩

theorem witness_OnlyCallAndReturnMoveTheStack :
    (∃ t, step (commanded (.init []) (stacked 16 3)) = .next t ∧ (t.sp != 3) = true) ∧
    (∃ t, step ((stacked 16 16).withFetchWord 16 0x00EE) = .next t ∧ (t.sp != 16) = true) ∧
    ∃ t, step ((stacked 16 15).withFetchWord 16 0x2300) = .next t ∧ (t.sp != 15) = true :=
  ⟨exists_of_after (by decide), exists_of_after (by decide), exists_of_after (by decide)⟩

theorem witness_KeypadIsReadByKeyInstructionsOnly : (Instr.drw 1 2 15).readsKeypad = false := by decide

/-- A step of every command but an oversized INIT answers a next state. -/
theorem witness_ExecStateMovesByTheTable :
    (∃ t, step (commanded .step waitingUp) = .next t) ∧ (∃ t, step (commanded .quit noMachine) = .next t) ∧ (∃ t, step (commanded .tick halted) = .next t) ∧
    (∃ t, step (commanded .pauseToggle paused) = .next t) ∧ (∃ t, step (commanded .quit base) = .next t) ∧
    (∃ t, step (commanded (.keys (keysOf (· == 3))) base) = .next t) ∧
    (∃ t, step (commanded (.init []) noMachine) = .next t) ∧ ∃ t, step (commanded (.init []) halted) = .next t :=
  ⟨⟨_, rfl⟩, ⟨_, rfl⟩, ⟨_, rfl⟩, ⟨_, rfl⟩, ⟨_, rfl⟩, ⟨_, rfl⟩, ⟨_, rfl⟩, ⟨_, rfl⟩⟩

theorem witness_OnlyKeyWaitSuspends :
    base.execState = .running ∧
      ∃ t, step (base.withFetchWord 16 0xFF0A) = .next t ∧ decide (t.execState = .awaitingKey) = true :=
  ⟨rfl, exists_of_after (by decide)⟩

theorem witness_HaltedIsTerminal :
    halted.Exists ∧ halted.execState = .halted ∧ (∀ rom, halted.pending ≠ .init rom) ∧
      ∀ rom, (commanded .tick halted).pending ≠ .init rom := by
  refine ⟨rfl, rfl, ?_, ?_⟩ <;> intro rom h <;> cases h

theorem witness_StepInPausedOrHaltedDoesNothing :
    (paused.Exists ∧ paused.pending = .step ∧ paused.execState = .paused) ∧
      halted.Exists ∧ halted.pending = .step ∧ halted.execState = .halted := by
  unfold State.Exists; decide

/-- PAUSE_TOGGLE in each of the four execution states. -/
theorem witness_PauseTogglesAndResumes :
    ((commanded .pauseToggle base).Exists ∧ (commanded .pauseToggle base).pending = .pauseToggle ∧ base.execState = .running) ∧
    ((commanded .pauseToggle waitingUp).Exists ∧ (commanded .pauseToggle waitingUp).pending = .pauseToggle ∧ waitingUp.execState = .awaitingKey) ∧
    ((commanded .pauseToggle paused).Exists ∧ (commanded .pauseToggle paused).pending = .pauseToggle ∧ paused.execState = .paused) ∧
    ((commanded .pauseToggle halted).Exists ∧ (commanded .pauseToggle halted).pending = .pauseToggle ∧
      halted.execState = .halted) := by
  unfold State.Exists; decide

theorem witness_TickCountsDown : (commanded .tick { base with dt := 0x00, st := 0xFF }).Exists ∧
    (commanded .tick { base with dt := 0x00, st := 0xFF }).pending = .tick := by
  unfold State.Exists; decide

theorem witness_TimersReachZeroInAsManyTicks :
    ({ base with dt := 0x03, st := 0x02, commands := [.tick, .tick, .tick, .step] } : State).Exists ∧ { base with dt := 0x03, st := 0x02, commands := [.tick, .tick, .tick, .step] }.commands =
      List.replicate 3 .tick ++ [.step] := by
  unfold State.Exists; decide

/-- One key down, and all of them. -/
theorem witness_WaitCapturesAKeyThatIsDown :
    ((waiting false (· == 15)).Exists ∧ (waiting false (· == 15)).pending = .step ∧ (waiting false (· == 15)).execState = .awaitingKey ∧
      (waiting false (· == 15)).kwPrevAny = false ∧ ∃ k, (waiting false (· == 15)).key k = true) ∧
    ∃ k, (waiting false (fun _ => true)).key k = true :=
  ⟨⟨rfl, rfl, rfl, rfl, 15, by decide⟩, 0, by decide⟩

/-- A key still held, and no key down. -/
theorem witness_WaitGoesOnWithoutATransition :
    ((waiting true (· == 15)).Exists ∧ (waiting true (· == 15)).pending = .step ∧ (waiting true (· == 15)).execState = .awaitingKey ∧
      (waiting true (· == 15)).kwPrevAny = true) ∧
    (waitingUp.Exists ∧ waitingUp.pending = .step ∧ waitingUp.execState = .awaitingKey ∧
      ∀ k, waitingUp.key k = false) := by
  unfold State.Exists; decide

/-- The largest ROM, and an empty one where no machine exists. -/
theorem witness_InitMakesANewMachine :
    ((commanded (.init (List.replicate 3584 0xAA)) halted).pending = .init (List.replicate 3584 0xAA) ∧
      (List.replicate 3584 (0xAA : Byte)).length ≤ 3584) ∧
    ((commanded (.init []) noMachine).pending = .init [] ∧ ([] : List Byte).length ≤ 3584) :=
  ⟨⟨rfl, (List.length_replicate ..).le⟩, rfl, Nat.zero_le _⟩

theorem witness_OversizedRomIsALoadError :
    (commanded (.init (List.replicate 3585 0xAA)) base).pending = .init (List.replicate 3585 0xAA) ∧
      3584 < (List.replicate 3585 (0xAA : Byte)).length :=
  ⟨rfl, by rw [List.length_replicate]; decide⟩

/-- The host's next command is INIT, with the largest ROM. -/
theorem witness_OversizedRomIsALoadError_next :
    ∃ t, step { base with commands := [.init (List.replicate 3585 0xAA), .init (List.replicate 3584 0xAA)] } = .next t ∧
      t.pending = .init (List.replicate 3584 0xAA) ∧ (List.replicate 3584 (0xAA : Byte)).length ≤ 3584 := by
  have e : ∀ r r' : List Byte, step { base with commands := [.init r, .init r'] } =
    .next (State.init { base with commands := [.init r'] } r) := fun _ _ => rfl
  exact ⟨_, e _ _, by rw [init_long _ _ (by decide)]; rfl, (List.length_replicate ..).le⟩

theorem witness_OnlyInitMakesAMachine :
    ¬noMachine.Exists ∧ noMachine.pending = .step ∧ (commanded .tick noMachine).pending = .tick ∧
      (commanded .pauseToggle noMachine).pending = .pauseToggle ∧ (commanded .quit noMachine).pending = .quit ∧
      (commanded (.keys (keysOf (· == 3))) noMachine).pending = .keys (keysOf (· == 3)) := by
  unfold State.Exists; decide

theorem witness_EqualMemoriesAreEqualData :
    Memory.wf Config.defaultFont [(0x000, 0x01), (0xFFF, 0x01)] = true ∧
      ∀ a, Memory.read Config.defaultFont [(0x000, 0x01), (0xFFF, 0x01)] a =
        Memory.read Config.defaultFont [(0x000, 0x01), (0xFFF, 0x01)] a := ⟨by decide, fun _ => rfl⟩

/-- The least and the greatest STACK_DEPTH. -/
theorem witness_ResetMeetsTheInvariant :
    Params.Ok { stackDepth := 12, font := Config.defaultFont } ∧
      Params.Ok { stackDepth := 65535, font := List.replicate 80 0xFF } := by
  unfold Params.Ok; decide

/-- A state that meets the invariant with PC at the highest value it allows, a full stack and the last byte listed. -/
theorem witness_StepKeepsTheInvariant :
    Inv (({ base with sp := 16, pc := 0x10FE, stack := List.replicate 16 0x1000 } : State).writeBytes 0xFFF [0x01]) ∧
      ∃ t, step (({ base with sp := 16, pc := 0x10FE, stack := List.replicate 16 0x1000 } : State).writeBytes 0xFFF [0x01])
        = .next t ∧ decide (t.execState = .halted) = true := by
  refine ⟨⟨?_, ?_, ?_, ?_, ?_⟩, exists_of_after (by decide)⟩
  · unfold Params.Ok; decide
  · unfold MemoryOk; decide
  · unfold StackOk; decide
  · exact ⟨by decide, fun a h => by rw [List.eq_of_mem_replicate h]; decide⟩
  · unfold HaltOk; decide

end Sys2Proof.Tests
end

section
/-! PROOFS. What an instruction may change (spec/00_scope.md R16, R17): its listed pieces of state, or those of a halt. -/

namespace Sys2Proof.Machine

/-- From `s` the instruction at PC − 2 changed at most the listed pieces of state, or halted with a fatal error
(00_scope.md R16, R17). -/
def WritesOrHalts (l : List Part) (s t : State) : Prop :=
  SameBut l s t ∨ ∃ e d, e ≠ .none ∧ HaltedBy e (s.pc - 2) d s t

/-! ### The operations that may raise -/

/-- The halt with a fatal error of the instruction being executed. -/
theorem State.halt_writesOrHalts (l : List Part) (s : State) {e : HaltCause} (d : Nat) (he : e ≠ .none) :
    WritesOrHalts l s (s.halt e s.instrAddr d) :=
  .inr ⟨e, d, he, s.halt_haltedBy e s.instrAddr d⟩

/-- An access out of range halts with the lowest bad address (20_memory.md R67, 60_exceptions.md R213). -/
theorem State.withRange_out_haltedBy (s k : State) {a n : Nat} (hn : n ≠ 0) (h : Config.memSize < a + n) :
    HaltedBy .outOfRange (s.pc - 2) (max a Config.memSize) s (s.withRange a n k) := by
  rw [s.withRange_out k a n hn h]
  exact s.halt_haltedBy .outOfRange s.instrAddr _

/-- A range-checked access changes what its continuation changes, or halts. -/
theorem State.withRange_writesOrHalts {l : List Part} {s k : State} (a n : Nat) (hk : SameBut l s k) :
    WritesOrHalts l s (s.withRange a n k) := by
  rcases s.withRange_cases k a n with ⟨ht, -⟩ | ⟨ht, -, -⟩
  · rw [ht]
    exact .inl hk
  · rw [ht]
    exact s.halt_writesOrHalts l _ (by decide)

/-- 00EE pops into PC, or underflows (40_control.md R121). -/
theorem execRet_writesOrHalts (s : State) : ∃ t, execRet s = .next t ∧ WritesOrHalts [.pc, .sp] s t := by
  rcases s.pop_cases with ⟨-, hpop⟩ | ⟨-, hpop⟩
  · exact ⟨_, by rw [execRet, hpop], s.halt_writesOrHalts _ 0 (by decide)⟩
  · exact ⟨_, by rw [execRet, hpop]; rfl, .inl (s.setSp_frame _ _)⟩

/-- 2NNN pushes and jumps, or overflows (40_control.md R123). -/
theorem execCall_writesOrHalts (nnn : BitVec 12) (s : State) :
    ∃ t, execCall nnn s = .next t ∧ WritesOrHalts [.pc, .sp, .stack] s t := by
  rcases s.push_cases s.pc with ⟨-, hpush⟩ | ⟨-, hpush⟩
  · exact ⟨_, by rw [execCall, hpush]; rfl, .inl (s.setStack_frame _ _ _)⟩
  · exact ⟨_, by rw [execCall, hpush], s.halt_writesOrHalts _ 0 (by decide)⟩

/-! ### Frames of two operations in a row -/

/-- A flag and then a result: the form of 8XY4 to 8XYE (42_alu.md). -/
theorem State.setReg_setReg_frame (s : State) (i j : RegIdx) (v w : Byte) :
    SameBut [.regs] s ((s.setReg i v).setReg j w) :=
  (s.setReg_frame i v).trans ((s.setReg i v).setReg_frame j w)

/-- A draw and then a register: the form of CXNN (43_index_jump_rand.md R163). -/
theorem State.drawn_setReg_frame (s : State) (i : RegIdx) (v : Byte) :
    SameBut [.regs, .draws] s (s.drawn.setReg i v) :=
  (s.drawn_frame.mono (by simp)).trans ((s.drawn.setReg_frame i v).mono (by simp))

/-- The pixels and then the flag: the form of DXYN (44_draw.md R170). -/
theorem State.setDisp_setReg_frame (s : State) (d : Display) (i : RegIdx) (v : Byte) :
    SameBut [.regs, .disp] s (State.setReg { s with disp := d } i v) :=
  ((s.setDisp_frame d).mono (by simp)).trans ((State.setReg_frame _ i v).mono (by simp))

/-- A key test and then a skip: the form of EX9E and EXA1 (45_keypad.md R180 to R182). -/
theorem State.afterKeyTest_skipIf_frame (s : State) (k : Byte) (c : Bool) :
    SameBut [.pc, .draws] s ((s.afterKeyTest k).skipIf c) :=
  ((s.afterKeyTest_frame k).mono (by simp)).trans (((s.afterKeyTest k).skipIf_frame c).mono (by simp))

/-! ### Every instruction -/

/-- Every instruction answers a next state, in which at most what its rule lists has changed, or a halt. -/
theorem exec_writesOrHalts (i : Instr) (s : State) : ∃ t, exec i s = .next t ∧ WritesOrHalts i.writes s t := by
  cases i with
  | cls => exact ⟨_, rfl, .inl (s.setDisp_frame _)⟩
  | ret => exact execRet_writesOrHalts s
  | call nnn => exact execCall_writesOrHalts nnn s
  | jp | jpV0 => exact ⟨_, rfl, .inl (s.setPc_frame _)⟩
  | seImm | sneImm | seReg | sneReg => exact ⟨_, rfl, .inl (s.skipIf_frame _)⟩
  | ldImm | addImm | ldReg | orReg | andReg | xorReg | ldVxDt => exact ⟨_, rfl, .inl (s.setReg_frame _ _)⟩
  | addReg | subReg | shr | subnReg | shl => exact ⟨_, rfl, .inl (s.setReg_setReg_frame _ _ _ _)⟩
  | ldI | addIVx | ldFont => exact ⟨_, rfl, .inl (s.setIdx_frame _)⟩
  | rnd => exact ⟨_, rfl, .inl (s.drawn_setReg_frame _ _)⟩
  | drw => exact ⟨_, rfl, s.withRange_writesOrHalts _ _ (s.setDisp_setReg_frame _ _ _)⟩
  | skp | sknp => exact ⟨_, rfl, .inl (s.afterKeyTest_skipIf_frame _ _)⟩
  | ldVxKey => exact ⟨_, rfl, .inl (s.setKeyWait_frame _ _ _)⟩
  | ldDtVx => exact ⟨_, rfl, .inl (s.setDt_frame _)⟩
  | ldStVx => exact ⟨_, rfl, .inl (s.setSt_frame _)⟩
  | ldBcd | storeRegs => exact ⟨_, rfl, s.withRange_writesOrHalts _ _ (s.writeBytes_frame _ _)⟩
  | loadRegs => exact ⟨_, rfl, s.withRange_writesOrHalts _ _ (s.loadRegsThrough_frame _)⟩

/-- Settles O39, by the frame of each instruction's meaning. -/
theorem instructionsWriteOnlyWhatTheyList : Obligations.InstructionsWriteOnlyWhatTheyList := by
  intro i s t h
  obtain ⟨t', ht', hw⟩ := exec_writesOrHalts i s
  obtain rfl : t' = t := Host.Outcome.next.inj (ht'.symm.trans h)
  exact hw

end Sys2Proof.Machine
end

section
/-! PROOFS. FX33, FX55 and FX65 (spec/46_misc_f.md R197 to R199): the bytes stored or the registers loaded, and the
halt before any write. -/

namespace Sys2Proof.Machine

/-! ### The meanings on a range that exists -/

theorem exec_ldBcd_ok (x : RegIdx) (s : State) (h : s.indexAddr + 3 ≤ Config.memSize) :
    exec (.ldBcd x) s = .next (s.writeBytes s.indexAddr (bcdDigits (s.reg x))) :=
  congrArg Host.Outcome.next (s.withRange_ok _ _ _ (.inr h))

theorem exec_storeRegs_ok (x : RegIdx) (s : State) (h : s.indexAddr + (x.val + 1) ≤ Config.memSize) :
    exec (.storeRegs x) s = .next (s.writeBytes s.indexAddr (s.regsThrough x)) :=
  congrArg Host.Outcome.next (s.withRange_ok _ _ _ (.inr h))

theorem exec_loadRegs_ok (x : RegIdx) (s : State) (h : s.indexAddr + (x.val + 1) ≤ Config.memSize) :
    exec (.loadRegs x) s = .next (s.loadRegsThrough x) :=
  congrArg Host.Outcome.next (s.withRange_ok _ _ _ (.inr h))

/-! ### What is stored -/

/-- The digits of a byte are read back as its hundreds, tens and ones (46_misc_f.md R197). -/
theorem State.readByte_writeBytes_bcdDigits (s : State) (hm : MemoryOk s) (v : Byte) (a : Nat)
    (h : a + 3 ≤ Config.memSize) :
    ((s.writeBytes a (bcdDigits v)).readByte a).toNat = v.toNat / 100 ∧
      ((s.writeBytes a (bcdDigits v)).readByte (a + 1)).toNat = v.toNat / 10 % 10 ∧
      ((s.writeBytes a (bcdDigits v)).readByte (a + 2)).toNat = v.toNat % 10 := by
  have hv := v.isLt
  have hread (j : Nat) (hj : j < 3) :=
    congrArg BitVec.toNat (s.readByte_writeBytes_in hm a (bcdDigits v) h j hj)
  refine ⟨(hread 0 (by decide)).trans ?_, (hread 1 (by decide)).trans ?_, (hread 2 (by decide)).trans ?_⟩ <;>
    simp only [bcdDigits, List.getElem_cons_zero, List.getElem_cons_succ, BitVec.toNat_ofNat] <;> omega

/-- A stored register is read back from its place (46_misc_f.md R198). -/
theorem State.readByte_writeBytes_regsThrough (s : State) (hm : MemoryOk s) {x r : RegIdx} (a : Nat)
    (h : a + (x.val + 1) ≤ Config.memSize) (hr : r ≤ x) :
    (s.writeBytes a (s.regsThrough x)).readByte (a + r.val) = s.reg r := by
  have hlen := s.length_regsThrough x
  have hr' : r.val ≤ x.val := hr
  have hj : r.val < (s.regsThrough x).length := by omega
  have hget : (s.regsThrough x)[r.val] = s.reg r :=
    Option.some.inj ((List.getElem?_eq_getElem hj).symm.trans (s.getElem?_regsThrough x r hr'))
  exact (s.readByte_writeBytes_in hm a _ (hlen ▸ h) r.val hj).trans hget

/-! ### The obligations -/

/-- Settles O29, by reading the three digits back from the bytes written. -/
theorem digitsAreStored : Obligations.DigitsAreStored := by
  intro x s
  refine ⟨⟨by simp [decodeWord, decodeUnitF], rfl⟩, fun hm h => ?_, fun h => ⟨_, rfl, ?_⟩⟩
  · obtain ⟨hhundreds, htens, hones⟩ := s.readByte_writeBytes_bcdDigits hm (s.reg x) s.indexAddr h
    exact ⟨_, exec_ldBcd_ok x s h, hhundreds, htens, hones,
      fun a ha => s.readByte_writeBytes_out _ a _ ha, s.writeBytes_frame _ _⟩
  · obtain ⟨hstate, hcause, -, hsame⟩ := s.withRange_out_haltedBy _ (by decide) h
    exact ⟨hstate, hcause, hsame .mem (by decide)⟩

/-- Settles O30, by reading each register back from the bytes written. -/
theorem registersAreStored : Obligations.RegistersAreStored := by
  intro x s
  refine ⟨⟨by simp [decodeWord, decodeUnitF], rfl⟩, fun hm h => ?_, fun h => ⟨_, rfl, ?_⟩⟩
  · exact ⟨_, exec_storeRegs_ok x s h, fun r hr => s.readByte_writeBytes_regsThrough hm _ h hr,
      fun a ha => s.readByte_writeBytes_out _ a _ (s.length_regsThrough x ▸ ha), s.writeBytes_frame _ _⟩
  · obtain ⟨hstate, hcause, -, hsame⟩ := s.withRange_out_haltedBy _ (Nat.succ_ne_zero x.val) h
    exact ⟨hstate, hcause, hsame .mem (by decide)⟩

/-- Settles O31, by the value of each register after the load. -/
theorem registersAreLoaded : Obligations.RegistersAreLoaded := by
  intro x s
  refine ⟨⟨by simp [decodeWord, decodeUnitF], rfl⟩, fun h => ?_, fun h => ⟨_, rfl, ?_⟩⟩
  · exact ⟨_, exec_loadRegs_ok x s h, fun r hr => (s.reg_loadRegsThrough x r).trans (if_pos hr),
      fun r hr => (s.reg_loadRegsThrough x r).trans (if_neg (Nat.not_le.2 hr)), s.loadRegsThrough_frame x⟩
  · obtain ⟨hstate, hcause, -, hsame⟩ := s.withRange_out_haltedBy _ (Nat.succ_ne_zero x.val) h
    exact ⟨hstate, hcause, hsame .regs (by decide)⟩

end Sys2Proof.Machine
end

section
/-! PROOFS. 00E0 and 1NNN (spec/40_control.md R120, R122): the display cleared, the jump taken, nothing else changed. -/

namespace Sys2Proof.Machine

/-- Zero extension keeps the number (40_control.md R122, R123). -/
@[simp] theorem toNat_zext16 (nnn : BitVec 12) : (zext16 nnn).toNat = nnn.toNat :=
  BitVec.toNat_setWidth_of_le (by decide)

/-- Settles O6, by the blank display's pixels and the frame of a new display. -/
theorem clearTurnsEveryPixelOff : Obligations.ClearTurnsEveryPixelOff := by
  intro s
  have hencodes : Encodes 0x00E0#16 .cls := ⟨by decide, rfl⟩
  exact ⟨hencodes, { s with disp := Display.blank }, rfl, Display.pixel_blank, s.setDisp_frame Display.blank⟩

/-- Settles O8, by the zero extension of NNN into PC and the frame of a new PC. -/
theorem jumpSetsPc : Obligations.JumpSetsPc := by
  intro nnn s
  have hencodes : Encodes (packNNN 0x1 nnn) (.jp nnn) := ⟨by simp [decodeWord], rfl⟩
  exact ⟨hencodes, s.setPc (zext16 nnn), rfl, toNat_zext16 nnn, s.setPc_frame _⟩

end Sys2Proof.Machine
end

section
/-! PROOFS. 3XNN, 4XNN, 6XNN and 7XNN (spec/41_skip_imm.md R130, R131, R133, R134): the skips against a byte, and the one
register that is loaded or added to. -/

namespace Sys2Proof.Machine

/-- The skip on a Boolean test is the skip on the proposition it tests (41_skip_imm.md R135). -/
theorem State.skipIf_pc_of_iff (s : State) {c : Bool} {P : Prop} [Decidable P] (h : c = true ↔ P) :
    (s.skipIf c).pc = if P then s.pc + 2 else s.pc :=
  (s.skipIf_pc c).trans (if_congr h rfl rfl)

/-! ### The units' words (30_encoding.md R97) -/

theorem encodes_seImm (x : RegIdx) (nn : Byte) : Encodes (packXNN 0x3 x nn) (.seImm x nn) :=
  ⟨by simp [decodeWord], rfl⟩

theorem encodes_sneImm (x : RegIdx) (nn : Byte) : Encodes (packXNN 0x4 x nn) (.sneImm x nn) :=
  ⟨by simp [decodeWord], rfl⟩

theorem encodes_ldImm (x : RegIdx) (nn : Byte) : Encodes (packXNN 0x6 x nn) (.ldImm x nn) :=
  ⟨by simp [decodeWord], rfl⟩

theorem encodes_addImm (x : RegIdx) (nn : Byte) : Encodes (packXNN 0x7 x nn) (.addImm x nn) :=
  ⟨by simp [decodeWord], rfl⟩

/-! ### The obligations -/

/-- Settles O12, by the PC and the frame of a skip on V[X] = NN and on V[X] ≠ NN. -/
theorem immediateSkips : Obligations.ImmediateSkips := by
  intro x nn s
  refine ⟨⟨encodes_seImm x nn, s.skipIf (s.reg x == nn), rfl, ?_, s.skipIf_frame _⟩,
    ⟨encodes_sneImm x nn, s.skipIf (s.reg x != nn), rfl, ?_, s.skipIf_frame _⟩⟩
  · exact s.skipIf_pc_of_iff beq_iff_eq
  · exact s.skipIf_pc_of_iff bne_iff_ne

/-- Settles O14, by the register read after a register write, and the sum of two bytes modulo 256. -/
theorem immediateLoadAndAdd : Obligations.ImmediateLoadAndAdd := by
  intro x nn s
  have hothers (v : Byte) : ∀ r, r ≠ x → (s.setReg x v).reg r = s.reg r := fun _ hr => s.reg_setReg_ne v hr
  have hsum : ((s.setReg x (s.reg x + nn)).reg x).toNat = ((s.reg x).toNat + nn.toNat) % 256 := by
    rw [s.reg_setReg_self]
    exact BitVec.toNat_add (s.reg x) nn
  exact ⟨⟨encodes_ldImm x nn, s.setReg x nn, rfl, s.reg_setReg_self x nn, hothers nn, s.setReg_frame x nn⟩,
    ⟨encodes_addImm x nn, s.setReg x (s.reg x + nn), rfl, hsum, hothers _, s.setReg_frame x _⟩⟩

end Sys2Proof.Machine
end

section
/-! PROOFS. 8XY0 to 8XY4 (spec/42_alu.md R140 to R144): the copy and the bitwise results without a flag, the sum with its
carry in VF. -/

namespace Sys2Proof.Machine

/-! ### The units' words (30_encoding.md R97) -/

theorem encodes_ldReg (x y : RegIdx) : Encodes (packXYN 0x8 x y 0x0) (.ldReg x y) :=
  ⟨by simp [decodeWord, decodeUnit8], rfl⟩

theorem encodes_orReg (x y : RegIdx) : Encodes (packXYN 0x8 x y 0x1) (.orReg x y) :=
  ⟨by simp [decodeWord, decodeUnit8], rfl⟩

theorem encodes_andReg (x y : RegIdx) : Encodes (packXYN 0x8 x y 0x2) (.andReg x y) :=
  ⟨by simp [decodeWord, decodeUnit8], rfl⟩

theorem encodes_xorReg (x y : RegIdx) : Encodes (packXYN 0x8 x y 0x3) (.xorReg x y) :=
  ⟨by simp [decodeWord, decodeUnit8], rfl⟩

theorem encodes_addReg (x y : RegIdx) : Encodes (packXYN 0x8 x y 0x4) (.addReg x y) :=
  ⟨by simp [decodeWord, decodeUnit8], rfl⟩

/-! ### Flags -/

theorem flagByte_decide (P : Prop) [Decidable P] : flagByte (decide P) = if P then 1 else 0 :=
  if_congr decide_eq_true_iff rfl rfl

/-- The carry is 1 exactly when the sum does not fit a byte (42_alu.md R144). -/
theorem carryFlag_eq (a b : Byte) : carryFlag a b = if a.toNat + b.toNat > 255 then 1 else 0 :=
  flagByte_decide (255 < a.toNat + b.toNat)

/-! ### The registers after a result, and after a flag and then a result -/

/-- A result alone changes no register but its destination, VF included (42_alu.md R140 to R143). -/
theorem State.setReg_changes_only (s : State) (x : RegIdx) (v : Byte) :
    (∀ r, r ≠ x → (s.setReg x v).reg r = s.reg r) ∧ SameBut [.regs] s (s.setReg x v) :=
  ⟨fun _ hr => s.reg_setReg_ne v hr, s.setReg_frame x v⟩

/-- The flag stays in its register unless the result, written last, goes there too. -/
theorem State.reg_setReg_setReg_first (s : State) {f x : RegIdx} (v w : Byte) (h : x ≠ f) :
    ((s.setReg f v).setReg x w).reg f = v :=
  ((s.setReg f v).reg_setReg_ne w h.symm).trans (s.reg_setReg_self f v)

theorem State.reg_setReg_setReg_ne (s : State) {f x r : RegIdx} (v w : Byte) (hx : r ≠ x) (hf : r ≠ f) :
    ((s.setReg f v).setReg x w).reg r = s.reg r :=
  ((s.setReg f v).reg_setReg_ne w hx).trans (s.reg_setReg_ne v hf)

/-! ### The obligations -/

/-- Settles O15, by the bits of the value written and the registers a single write leaves unchanged. -/
theorem copyAndLogic : Obligations.CopyAndLogic := by
  intro x y s
  refine ⟨⟨encodes_ldReg x y, s.setReg x (s.reg y), rfl, s.reg_setReg_self x _, s.setReg_changes_only x _⟩,
    ⟨encodes_orReg x y, s.setReg x (s.reg x ||| s.reg y), rfl, fun k => ?_, s.setReg_changes_only x _⟩,
    ⟨encodes_andReg x y, s.setReg x (s.reg x &&& s.reg y), rfl, fun k => ?_, s.setReg_changes_only x _⟩,
    ⟨encodes_xorReg x y, s.setReg x (s.reg x ^^^ s.reg y), rfl, fun k => ?_, s.setReg_changes_only x _⟩⟩
  · rw [s.reg_setReg_self, BitVec.getLsbD_or]
  · rw [s.reg_setReg_self, BitVec.getLsbD_and]
  · rw [s.reg_setReg_self, BitVec.getLsbD_xor]

/-- Settles O16: the sum is written last, so V[X] holds it for every X, and VF keeps the carry when X is not F. -/
theorem addSetsCarry : Obligations.AddSetsCarry := by
  intro x y s
  have hsum : (((s.setReg vF (carryFlag (s.reg x) (s.reg y))).setReg x (s.reg x + s.reg y)).reg x).toNat =
      ((s.reg x).toNat + (s.reg y).toNat) % 256 := by
    rw [State.reg_setReg_self]
    exact BitVec.toNat_add (s.reg x) (s.reg y)
  exact ⟨encodes_addReg x y, _, rfl, hsum,
    fun hx => (s.reg_setReg_setReg_first _ _ hx).trans (carryFlag_eq _ _),
    fun r hx hf => s.reg_setReg_setReg_ne _ _ hx hf, s.setReg_setReg_frame _ _ _ _⟩

end Sys2Proof.Machine
end

section
/-! PROOFS. ANNN, BNNN and FX29 (spec/43_index_jump_rand.md R161, R162; spec/46_misc_f.md R196): the values written to I
and to PC, exact because they fit 16 bits. -/

namespace Sys2Proof.Machine

/-! ### The units' words (30_encoding.md R97) -/

theorem encodes_ldI (nnn : BitVec 12) : Encodes (packNNN 0xA nnn) (.ldI nnn) :=
  ⟨by simp [decodeWord], rfl⟩

theorem encodes_jpV0 (nnn : BitVec 12) : Encodes (packNNN 0xB nnn) (.jpV0 nnn) :=
  ⟨by simp [decodeWord], rfl⟩

theorem encodes_ldFont (x : RegIdx) : Encodes (packXNN 0xF x 0x29) (.ldFont x) :=
  ⟨by simp [decodeWord, decodeUnitF], rfl⟩

/-! ### Sums and products that fit 16 bits -/

/-- A register byte keeps its number where it meets a 16-bit register (00_scope.md R13). -/
@[simp] theorem toNat_byteToWord (b : Byte) : (byteToWord b).toNat = b.toNat :=
  BitVec.toNat_setWidth_of_le (by decide)

/-- No wrap: the sum is at most 0x0FFF + 0xFF = 0x10FE (43_index_jump_rand.md R162). -/
theorem toNat_zext16_add_byteToWord (nnn : BitVec 12) (b : Byte) :
    (zext16 nnn + byteToWord b).toNat = nnn.toNat + b.toNat := by
  have hfits : (zext16 nnn).toNat + (byteToWord b).toNat < 2 ^ 16 := by
    rw [toNat_zext16, toNat_byteToWord]
    omega
  rw [BitVec.toNat_add_of_lt hfits, toNat_zext16, toNat_byteToWord]

/-- No wrap: the product is at most 0xFF × 5 = 0x04FB (46_misc_f.md R196). -/
theorem toNat_byteToWord_mul_five (b : Byte) : (byteToWord b * 5).toNat = b.toNat * 5 := by
  have hfits : (byteToWord b).toNat * (5 : Word).toNat < 2 ^ 16 := by
    rw [toNat_byteToWord, show (5 : Word).toNat = 5 from rfl]
    omega
  rw [BitVec.toNat_mul_of_lt hfits, toNat_byteToWord]
  rfl

/-! ### The obligations -/

/-- Settles O19, by the zero extension of NNN and the exact product V[X] × 5, with the frame of a new I. -/
theorem indexLoads : Obligations.IndexLoads :=
  ⟨fun nnn s => ⟨encodes_ldI nnn, s.setIdx (zext16 nnn), rfl, toNat_zext16 nnn, s.setIdx_frame _⟩,
    fun x s => ⟨encodes_ldFont x, s.setIdx (byteToWord (s.reg x) * 5), rfl, toNat_byteToWord_mul_five (s.reg x),
      s.setIdx_frame _⟩⟩

/-- Settles O21, by the exact sum NNN + V0 and the frame of a new PC. -/
theorem offsetJumpAddsV0 : Obligations.OffsetJumpAddsV0 := fun nnn s =>
  ⟨encodes_jpV0 nnn, s.setPc (zext16 nnn + byteToWord (s.reg 0)), rfl, toNat_zext16_add_byteToWord nnn (s.reg 0),
    s.setPc_frame _⟩

end Sys2Proof.Machine
end

section
/-! PROOFS. FX07, FX15 and FX18 (spec/46_misc_f.md R190, R193, R194): DT read into a register, DT and ST set from one, and
the sound that follows ST. -/

namespace Sys2Proof.Machine

/-! ### The units' words (30_encoding.md R97) -/

theorem encodes_ldVxDt (x : RegIdx) : Encodes (packXNN 0xF x 0x07) (.ldVxDt x) :=
  ⟨by simp [decodeWord, decodeUnitF], rfl⟩

theorem encodes_ldDtVx (x : RegIdx) : Encodes (packXNN 0xF x 0x15) (.ldDtVx x) :=
  ⟨by simp [decodeWord, decodeUnitF], rfl⟩

theorem encodes_ldStVx (x : RegIdx) : Encodes (packXNN 0xF x 0x18) (.ldStVx x) :=
  ⟨by simp [decodeWord, decodeUnitF], rfl⟩

/-! ### The sound -/

/-- SOUND_ON is (ST ≠ 0) (60_exceptions.md R236). -/
theorem State.soundOn_iff (s : State) : s.soundOn = true ↔ s.st ≠ 0 :=
  bne_iff_ne

/-! ### The obligation -/

/-- Settles O27, by the frames of the three writes and the sound read from the new ST. -/
theorem timersAreReadAndSet : Obligations.TimersAreReadAndSet := fun x s =>
  ⟨⟨encodes_ldVxDt x, s.setReg x s.dt, rfl, s.reg_setReg_self x s.dt, s.setReg_changes_only x s.dt⟩,
    ⟨encodes_ldDtVx x, s.setDt (s.reg x), rfl, s.setDt_dt (s.reg x), s.setDt_frame (s.reg x)⟩,
    ⟨encodes_ldStVx x, s.setSt (s.reg x), rfl, s.setSt_st (s.reg x), (s.setSt (s.reg x)).soundOn_iff,
      s.setSt_frame (s.reg x)⟩⟩

end Sys2Proof.Machine
end

section
/-! PROOFS. The word that is no instruction (spec/60_exceptions.md R212, R215): an instruction cycle that only advances PC
and leaves a report. -/

namespace Sys2Proof.Machine

theorem State.reportInvalid_frame (s : State) (w a : Word) : SameBut [.reports] s (s.reportInvalid w a) := by
  intro p hp
  cases p <;> simp_all [Part.same]

/-- The fetch advance followed by a report. -/
theorem State.advance_reportInvalid_frame (s : State) (w a : Word) :
    SameBut [.pc, .reports] s (s.advance.reportInvalid w a) :=
  ((s.setPc_frame (s.pc + 2)).mono (by simp)).trans ((s.advance.reportInvalid_frame w a).mono (by simp))

/-- The branch of the instruction cycle that a rejected word takes. -/
theorem State.runInstruction_of_invalid (s : State) (hf : FetchOk s) {e : DecodeError}
    (hd : decodeWord s.fetchedWord = .error e) :
    s.runInstruction = .next (s.advance.reportInvalid s.fetchedWord s.pc) := by
  obtain ⟨hout, -⟩ | ⟨-, i, hok, -⟩ | ⟨-, -, hrun⟩ := s.runInstruction_cases
  · exact absurd hf hout
  · rw [hd] at hok
    cases hok
  · exact hrun

/-- Settles O35, by the cycle's branch for a rejected word and the frames of the advance and of the report. -/
theorem invalidWordIsAReportedNoOp : Obligations.InvalidWordIsAReportedNoOp := by
  intro s hr hf hd
  have hstep : step s = .next (s.taken.advance.reportInvalid s.fetchedWord s.pc) :=
    (step_run s hr).trans (s.taken.runInstruction_of_invalid hf hd)
  exact ⟨_, hstep, rfl, rfl, s.taken.advance_reportInvalid_frame _ _⟩

end Sys2Proof.Machine
end

section
/-! PROOFS. Decoding and encoding (spec/30_encoding.md R90 to R99): each undoes the other, and the words that decode are
those of the opcode map. -/

namespace Sys2Proof

open Sys2Proof.Machine

/-! ### Decoding what encoding gives -/

/-- The word of a well-formed instruction decodes to it (30_encoding.md R97). -/
theorem decodeWord_encode (i : Instr) (h : i.wellFormed = true) : decodeWord (encode i) = .ok i := by
  cases i with
  | cls | ret => rfl
  | jp | call | seImm | sneImm | ldImm | addImm | ldI | jpV0 | rnd | seReg | sneReg => simp [encode, decodeWord]
  | ldReg | orReg | andReg | xorReg | addReg | subReg | shr | subnReg | shl =>
    simp [encode, decodeWord, decodeUnit8]
  | drw x y n =>
    have hn : n ≤ 15 := of_decide_eq_true h
    simp [encode, decodeWord, Nat.mod_eq_of_lt (show n < 16 by omega)]
  | skp | sknp => simp [encode, decodeWord, decodeUnitE]
  | ldVxDt | ldVxKey | ldDtVx | ldStVx | addIVx | ldFont | ldBcd | storeRegs | loadRegs =>
    simp [encode, decodeWord, decodeUnitF]

/-- The word of a well-formed instruction is its encoding both ways. -/
theorem encodes_encode (i : Instr) (h : i.wellFormed = true) : Encodes (encode i) i := ⟨decodeWord_encode i h, rfl⟩

/-- Settles O2: the two bytes make the word again, which decodes to the instruction. -/
theorem decodeOfEncodeIsTheInstruction : Obligations.DecodeOfEncodeIsTheInstruction := by
  intro i rest h
  have hword : decodeWord (Word.ofBytes (encode i).hi (encode i).lo) = .ok i := by
    rw [Word.ofBytes_hi_lo, decodeWord_encode i h]
  simp only [encodeBytes, List.cons_append, List.nil_append, decodeBytes, hword]

/-! ### Encoding what decoding gives -/

/-- A word from its high nibble and NNN. -/
theorem packNNN_of_opField {w : Word} {op : BitVec 4} (h : opField w = op) : packNNN op (nnnField w) = w :=
  h ▸ packNNN_fields w

/-- A word from its high nibble, X and NN. -/
theorem packXNN_of_fields {w : Word} {op : BitVec 4} {nn : Byte} (h : opField w = op) (hn : nnField w = nn) :
    packXNN op (xField w) nn = w :=
  h ▸ hn ▸ packXNN_fields w

/-- A word from its high nibble, X, Y and N. -/
theorem packXYN_of_fields {w : Word} {op n : BitVec 4} (h : opField w = op) (hn : nField w = n) :
    packXYN op (xField w) (yField w) n = w :=
  h ▸ hn ▸ packXYN_fields w

theorem encode_of_decodeUnit0 {w : Word} {i : Instr} (h : decodeUnit0 w = .ok i) :
    i.wellFormed = true ∧ encode i = w := by
  unfold decodeUnit0 at h
  split at h
  · cases h; exact ⟨rfl, Eq.symm ‹_›⟩
  · split at h
    · cases h; exact ⟨rfl, Eq.symm ‹_›⟩
    · cases h

theorem encode_of_decodeUnit8 {w : Word} {i : Instr} (hop : opField w = 0x8#4) (h : decodeUnit8 w = .ok i) :
    i.wellFormed = true ∧ encode i = w := by
  unfold decodeUnit8 at h
  split at h <;> cases h <;> exact ⟨rfl, packXYN_of_fields hop ‹_›⟩

theorem encode_of_decodeUnitE {w : Word} {i : Instr} (hop : opField w = 0xE#4) (h : decodeUnitE w = .ok i) :
    i.wellFormed = true ∧ encode i = w := by
  unfold decodeUnitE at h
  split at h <;> cases h <;> exact ⟨rfl, packXNN_of_fields hop ‹_›⟩

theorem encode_of_decodeUnitF {w : Word} {i : Instr} (hop : opField w = 0xF#4) (h : decodeUnitF w = .ok i) :
    i.wellFormed = true ∧ encode i = w := by
  unfold decodeUnitF at h
  split at h <;> cases h <;> exact ⟨rfl, packXNN_of_fields hop ‹_›⟩

/-- Settles O3, unit by unit: each branch's word is its fields packed again. -/
theorem encodeOfDecodeIsTheWord : Obligations.EncodeOfDecodeIsTheWord := by
  intro w i h
  unfold decodeWord at h
  split at h
  case h_1 => exact encode_of_decodeUnit0 h
  case h_9 hop => exact encode_of_decodeUnit8 hop h
  case h_15 hop => exact encode_of_decodeUnitE hop h
  case h_16 hop => exact encode_of_decodeUnitF hop h
  case h_2 hop | h_3 hop | h_11 hop | h_12 hop => cases h; exact ⟨rfl, packNNN_of_opField hop⟩
  case h_4 hop | h_5 hop | h_7 hop | h_8 hop | h_13 hop => cases h; exact ⟨rfl, packXNN_of_fields hop rfl⟩
  case h_6 hop | h_10 hop =>
    split at h
    · cases h; exact ⟨rfl, packXYN_of_fields hop ‹_›⟩
    · cases h
  case h_14 hop =>
    cases h
    exact ⟨decide_eq_true (by omega), packXYN_of_fields hop (by simp)⟩
  case h_17 => cases h

/-! ### The rows of the opcode map -/

/-- The encoding of an instruction matches its row (30_encoding.md R97). -/
theorem rowOf_covers_encode : ∀ i : Instr, (rowOf i).covers (encode i) = true
  | .cls => Laws.EncodeRow.cls
  | .ret => Laws.EncodeRow.ret
  | .jp nnn => Laws.EncodeRow.jp nnn
  | .call nnn => Laws.EncodeRow.call nnn
  | .seImm x nn => Laws.EncodeRow.seImm x nn
  | .sneImm x nn => Laws.EncodeRow.sneImm x nn
  | .seReg x y => Laws.EncodeRow.seReg x y
  | .ldImm x nn => Laws.EncodeRow.ldImm x nn
  | .addImm x nn => Laws.EncodeRow.addImm x nn
  | .ldReg x y => Laws.EncodeRow.ldReg x y
  | .orReg x y => Laws.EncodeRow.orReg x y
  | .andReg x y => Laws.EncodeRow.andReg x y
  | .xorReg x y => Laws.EncodeRow.xorReg x y
  | .addReg x y => Laws.EncodeRow.addReg x y
  | .subReg x y => Laws.EncodeRow.subReg x y
  | .shr x y => Laws.EncodeRow.shr x y
  | .subnReg x y => Laws.EncodeRow.subnReg x y
  | .shl x y => Laws.EncodeRow.shl x y
  | .sneReg x y => Laws.EncodeRow.sneReg x y
  | .ldI nnn => Laws.EncodeRow.ldI nnn
  | .jpV0 nnn => Laws.EncodeRow.jpV0 nnn
  | .rnd x nn => Laws.EncodeRow.rnd x nn
  | .drw x y n => Laws.EncodeRow.drw x y n
  | .skp x => Laws.EncodeRow.skp x
  | .sknp x => Laws.EncodeRow.sknp x
  | .ldVxDt x => Laws.EncodeRow.ldVxDt x
  | .ldVxKey x => Laws.EncodeRow.ldVxKey x
  | .ldDtVx x => Laws.EncodeRow.ldDtVx x
  | .ldStVx x => Laws.EncodeRow.ldStVx x
  | .addIVx x => Laws.EncodeRow.addIVx x
  | .ldFont x => Laws.EncodeRow.ldFont x
  | .ldBcd x => Laws.EncodeRow.ldBcd x
  | .storeRegs x => Laws.EncodeRow.storeRegs x
  | .loadRegs x => Laws.EncodeRow.loadRegs x

/-- Every instruction's row is in the map. -/
theorem rowOf_mem_opcodeMap (i : Instr) : rowOf i ∈ opcodeMap := by
  cases i <;> simp [opcodeMap, oneOfEachRow, rowOf]

/-- What the mask F000 leaves of a word is its high nibble. -/
theorem opField_of_mask {w p : Word} (h : w &&& 0xF000 = p) : opField w = opField p := by
  rw [← h, ← packNNN_fields w, packNNN_mask_op, opField_packNNN, opField_packNNN]

/-- What the mask F00F leaves of a word is its high nibble and N. -/
theorem fields_of_mask_n {w p : Word} (h : w &&& 0xF00F = p) : opField w = opField p ∧ nField w = nField p := by
  rw [← h, ← packXYN_fields w, packXYN_mask_n]
  simp

/-- What the mask F0FF leaves of a word is its high nibble and NN. -/
theorem fields_of_mask_nn {w p : Word} (h : w &&& 0xF0FF = p) : opField w = opField p ∧ nnField w = nnField p := by
  rw [← h, ← packXNN_fields w, packXNN_mask_nn]
  simp

/-- A word that matches an instruction's row decodes to an instruction of that row. -/
theorem map_rowOf_decodeWord (i : Instr) (w : Word) (h : (rowOf i).covers w = true) :
    (decodeWord w).map rowOf = .ok (rowOf i) := by
  have hm : w &&& (rowOf i).mask = (rowOf i).pattern := (Laws.EncodeRow.covers_iff _ _).1 h
  cases i with
  | cls | ret =>
    obtain rfl := (BitVec.and_allOnes (x := w)).symm.trans hm
    rfl
  | jp | call | ldI | jpV0 | seImm | sneImm | ldImm | addImm | rnd | drw =>
    dsimp only [rowOf] at hm
    rw [decodeWord, opField_of_mask hm]
    rfl
  | seReg | sneReg =>
    dsimp only [rowOf] at hm
    obtain ⟨hop, hn⟩ := fields_of_mask_n hm
    rw [decodeWord, hop]
    exact congrArg (Except.map rowOf) (if_pos hn)
  | ldReg | orReg | andReg | xorReg | addReg | subReg | shr | subnReg | shl =>
    dsimp only [rowOf] at hm
    obtain ⟨hop, hn⟩ := fields_of_mask_n hm
    rw [decodeWord, hop, decodeUnit8, hn]
    rfl
  | skp | sknp =>
    dsimp only [rowOf] at hm
    obtain ⟨hop, hnn⟩ := fields_of_mask_nn hm
    rw [decodeWord, hop, decodeUnitE, hnn]
    rfl
  | ldVxDt | ldVxKey | ldDtVx | ldStVx | addIVx | ldFont | ldBcd | storeRegs | loadRegs =>
    dsimp only [rowOf] at hm
    obtain ⟨hop, hnn⟩ := fields_of_mask_nn hm
    rw [decodeWord, hop, decodeUnitF, hnn]
    rfl

theorem exists_of_map_rowOf {d : Except DecodeError Instr} {r : OpRow} (h : d.map rowOf = .ok r) :
    ∃ i, d = .ok i ∧ rowOf i = r := by
  cases d with
  | ok i => exact ⟨i, rfl, Except.ok.inj h⟩
  | error => cases h

theorem mem_opcodeMap {r : OpRow} (h : r ∈ opcodeMap) : ∃ i, rowOf i = r :=
  (List.mem_map.1 h).imp fun _ hi => hi.2

/-- Settles O4. The rows are disjoint because a word that matches two of them decodes to one instruction, of both. -/
theorem decodesExactlyTheWordsOfTheMap : Obligations.DecodesExactlyTheWordsOfTheMap := by
  have hdecodes (w : Word) (r : OpRow) (hr : r ∈ opcodeMap) (h : r.covers w = true) :
      ∃ i, decodeWord w = .ok i ∧ rowOf i = r := by
    obtain ⟨i, rfl⟩ := mem_opcodeMap hr
    exact exists_of_map_rowOf (map_rowOf_decodeWord i w h)
  refine ⟨fun w i h => ⟨rowOf_mem_opcodeMap i, ?_⟩, hdecodes, fun w r r' hr hr' h h' => ?_⟩
  · obtain ⟨-, rfl⟩ := encodeOfDecodeIsTheWord w i h
    exact rowOf_covers_encode i
  · obtain ⟨i, hi, rfl⟩ := hdecodes w r hr h
    obtain ⟨j, hj, rfl⟩ := hdecodes w r' hr' h'
    rw [hi] at hj
    cases hj
    rfl

/-! ### The words decoding rejects -/

theorem toNat_opField (w : Word) : (opField w).toNat = w.toNat / 4096 := by
  have := w.isLt
  simp [opField, Nat.shiftRight_eq_div_pow]
  omega

theorem toNat_nField (w : Word) : (nField w).toNat = w.toNat % 16 := by
  simp [nField]

theorem toNat_nnField (w : Word) : (nnField w).toNat = w.toNat % 256 := by
  simp [nnField]

theorem decodeUnit0_error_iff (w : Word) :
    decodeUnit0 w = .error (.invalidOpcode w) ↔ w ≠ 0x00E0#16 ∧ w ≠ 0x00EE#16 := by
  unfold decodeUnit0
  split
  · simp_all
  · split <;> simp_all

theorem decodeUnit8_error_iff (w : Word) :
    decodeUnit8 w = .error (.invalidOpcode w) ↔ w.toNat % 16 ∈ [0x8, 0x9, 0xA, 0xB, 0xC, 0xD, 0xF] := by
  rw [← toNat_nField]
  unfold decodeUnit8
  generalize nField w = n
  split
  case h_10 =>
    have := n.isLt
    simp [← BitVec.toNat_inj] at *
    omega
  all_goals simp

theorem decodeUnitE_error_iff (w : Word) :
    decodeUnitE w = .error (.invalidOpcode w) ↔ w.toNat % 256 ∉ [0x9E, 0xA1] := by
  rw [← toNat_nnField]
  unfold decodeUnitE
  generalize nnField w = nn
  split
  case h_3 => simp_all [← BitVec.toNat_inj]
  all_goals simp

theorem decodeUnitF_error_iff (w : Word) :
    decodeUnitF w = .error (.invalidOpcode w) ↔
      w.toNat % 256 ∉ [0x07, 0x0A, 0x15, 0x18, 0x1E, 0x29, 0x33, 0x55, 0x65] := by
  rw [← toNat_nnField]
  unfold decodeUnitF
  generalize nnField w = nn
  split
  case h_10 => simp_all [← BitVec.toNat_inj]
  all_goals simp

theorem nField_eq_zero_iff (w : Word) : nField w = 0#4 ↔ w.toNat % 16 = 0 := by
  rw [← toNat_nField, ← BitVec.toNat_inj]
  rfl

/-- Settles O5, unit by unit: within a unit the words rejected are those whose sub-field selects no row. -/
theorem rejectsExactlyTheInvalidWords : Obligations.RejectsExactlyTheInvalidWords := by
  intro w
  have hop := toNat_opField w
  unfold decodeWord
  split
  case h_1 h => simp [← hop, h, decodeUnit0_error_iff]
  case h_9 h => simp [← hop, h, decodeUnit8_error_iff]
  case h_15 h => simp [← hop, h, decodeUnitE_error_iff]
  case h_16 h => simp [← hop, h, decodeUnitF_error_iff]
  case h_6 h | h_10 h => simp [← hop, h, nField_eq_zero_iff w]
  case h_2 h | h_3 h | h_4 h | h_5 h | h_7 h | h_8 h | h_11 h | h_12 h | h_13 h | h_14 h => simp [← hop, h]
  case h_17 =>
    have hlt := (opField w).isLt
    simp [← BitVec.toNat_inj] at *
    omega

/-- Settles O1, by evaluating the decoder on each word. -/
theorem wordsOfTheMapDecode : Obligations.WordsOfTheMapDecode := by
  unfold Obligations.WordsOfTheMapDecode
  decide

end Sys2Proof
end

section
/-! PROOFS. All that one step can do (spec/60_exceptions.md R225, R240), said once: every statement about `step` takes
its cases from here. -/

namespace Sys2Proof.Machine

/-- The cases of one step from `s`, by the pending command, the phase and the fetched word. -/
inductive StepCase (s : State) : State → Prop
  | init (rom : List Byte) (hc : s.pending = .init rom) : StepCase s (s.taken.init rom)
  | fetchOut (hr : RunsNext s) (hf : ¬FetchOk s) :
      StepCase s (s.taken.halt .outOfRange s.pc (max s.pc.toNat Config.memSize))
  | exec (i : Instr) (t : State) (hr : RunsNext s) (hf : FetchOk s) (hd : decodeWord s.fetchedWord = .ok i)
      (hx : exec i s.taken.advance = .next t) : StepCase s t
  | invalid (hr : RunsNext s) (hf : FetchOk s) : StepCase s (s.taken.advance.reportInvalid s.fetchedWord s.pc)
  | await (hc : s.pending = .step) (he : s.Exists) (hx : s.execState = .awaitingKey) : StepCase s s.taken.awaitKey
  | idle (hc : s.pending = .step) (he : s.Exists) (hx : s.execState = .paused ∨ s.execState = .halted) :
      StepCase s s.taken
  | tick (hc : s.pending = .tick) (he : s.Exists) : StepCase s s.taken.tick
  | pauseToggle (hc : s.pending = .pauseToggle) (he : s.Exists) : StepCase s s.taken.pauseToggle
  | quit (hc : s.pending = .quit) : StepCase s s.taken
  | keys (levels : Keypad) (hc : s.pending = .keys levels) : StepCase s (s.taken.setKeys levels)

/-- An instruction cycle is one of three cases of a step. -/
theorem stepCase_of_runInstruction {s t : State} (hr : RunsNext s) (h : s.taken.runInstruction = .next t) :
    StepCase s t := by
  obtain ⟨hf, hrun⟩ | ⟨hf, i, hd, hrun⟩ | ⟨hf, -, hrun⟩ := s.taken.runInstruction_cases
  · cases hrun.symm.trans h
    exact .fetchOut hr hf
  · exact .exec i t hr hf hd (hrun.symm.trans h)
  · cases hrun.symm.trans h
    exact .invalid hr hf

/-- A STEP is an instruction cycle, the STEP of a wait, or nothing (60_exceptions.md R225). -/
theorem stepCase_of_stepCommand {s t : State} (hc : s.pending = .step) (he : s.Exists)
    (h : s.taken.stepCommand = .next t) : StepCase s t := by
  rw [State.stepCommand, s.taken_execState] at h
  cases hx : s.execState <;> rw [hx] at h
  case running => exact stepCase_of_runInstruction ⟨hc, he, hx⟩ h
  case awaitingKey => cases h; exact .await hc he hx
  case paused => cases h; exact .idle hc he (.inl hx)
  case halted => cases h; exact .idle hc he (.inr hx)

/-- A step that answers a next state is one of the cases. -/
theorem stepCase {s t : State} (h : step s = .next t) : StepCase s t := by
  rw [step_eq] at h
  cases hc : s.pending <;> rw [hc] at h
  case init rom => cases h; exact .init rom hc
  case quit => cases h; exact .quit hc
  case keys levels => cases h; exact .keys levels hc
  case step =>
    obtain ⟨he, h⟩ := State.onMachine_next h
    exact stepCase_of_stepCommand hc he h
  case tick =>
    obtain ⟨he, h⟩ := State.onMachine_next h
    cases h
    exact .tick hc he
  case pauseToggle =>
    obtain ⟨he, h⟩ := State.onMachine_next h
    cases h
    exact .pauseToggle hc he

end Sys2Proof.Machine
end

section
/-! PROOFS. 00EE and 2NNN (spec/40_control.md R121, R123): what a return and a call do to PC, SP and the stack, and the
halts of an empty and of a full stack. -/

namespace Sys2Proof.Machine

/-! ### The two meanings, case by case -/

/-- The state a call leaves: the return address on the stack, PC at NNN. -/
def State.called (s : State) (nnn : BitVec 12) : State :=
  { s with stack := s.stack.set s.sp.toNat s.pc, sp := s.sp + 1, pc := zext16 nnn }

/-- The state a return leaves: PC at the top entry, which keeps its value. -/
def State.returned (s : State) : State :=
  { s with sp := s.sp - 1, pc := s.stack.getD (s.sp.toNat - 1) 0 }

theorem exec_call_ok (nnn : BitVec 12) (s : State) (h : s.sp.toNat < s.params.stackDepth) :
    exec (.call nnn) s = .next (s.called nnn) := by
  obtain ⟨-, hpush⟩ | ⟨hfull, -⟩ := s.push_cases s.pc
  · change execCall nnn s = _
    rw [execCall, hpush]
    rfl
  · omega

theorem exec_call_overflow (nnn : BitVec 12) (s : State) (h : s.params.stackDepth ≤ s.sp.toNat) :
    exec (.call nnn) s = .next (s.halt .stackOverflow s.instrAddr 0) := by
  obtain ⟨hroom, -⟩ | ⟨-, hpush⟩ := s.push_cases s.pc
  · omega
  · change execCall nnn s = _
    rw [execCall, hpush]

theorem exec_ret_ok (s : State) (h : s.sp ≠ 0) : exec .ret s = .next s.returned := by
  obtain ⟨hempty, -⟩ | ⟨-, hpop⟩ := s.pop_cases
  · exact absurd hempty h
  · change execRet s = _
    rw [execRet, hpop]
    rfl

theorem exec_ret_underflow (s : State) (h : s.sp = 0) :
    exec .ret s = .next (s.halt .stackUnderflow s.instrAddr 0) := by
  obtain ⟨-, hpop⟩ | ⟨hfull, -⟩ := s.pop_cases
  · change execRet s = _
    rw [execRet, hpop]
  · exact absurd h hfull

/-! ### SP up and down -/

/-- No wrap: SP is below STACK_DEPTH, which fits 16 bits (10_state.md R40; log 3). -/
theorem State.toNat_sp_add_one {s : State} (hp : s.params.Ok) (h : s.sp.toNat < s.params.stackDepth) :
    (s.sp + 1).toNat = s.sp.toNat + 1 := by
  obtain ⟨-, hmax, -⟩ := hp
  exact BitVec.toNat_add_of_lt (show s.sp.toNat + 1 < 2 ^ 16 by omega)

theorem State.toNat_sp_pos {s : State} (h : s.sp ≠ 0) : 0 < s.sp.toNat :=
  Nat.pos_of_ne_zero fun e => h (BitVec.eq_of_toNat_eq e)

theorem State.toNat_sp_sub_one {s : State} (h : s.sp ≠ 0) : (s.sp - 1).toNat = s.sp.toNat - 1 := by
  have hpos := State.toNat_sp_pos h
  exact BitVec.toNat_sub_of_le (show 1 ≤ s.sp.toNat from hpos)

/-- A call keeps the stack's bounds. -/
theorem State.called_stackOk {s : State} (nnn : BitVec 12) (hp : s.params.Ok) (hs : StackOk s)
    (h : s.sp.toNat < s.params.stackDepth) : StackOk (s.called nnn) := by
  refine ⟨(List.length_set ..).trans hs.1, ?_⟩
  change (s.sp + 1).toNat ≤ _
  rw [State.toNat_sp_add_one hp h]
  exact h

/-- A return keeps the stack's bounds. -/
theorem State.returned_stackOk {s : State} (hs : StackOk s) (h : s.sp ≠ 0) : StackOk s.returned := by
  refine ⟨hs.1, ?_⟩
  change (s.sp - 1).toNat ≤ _
  rw [State.toNat_sp_sub_one h]
  exact (Nat.sub_le _ _).trans hs.2

/-! ### The obligations -/

/-- Settles O7, by the two cases of a pop. -/
theorem returnPopsOrUnderflows : Obligations.ReturnPopsOrUnderflows := by
  intro s
  refine ⟨encodes_encode .ret rfl, fun hs hsp => ⟨_, exec_ret_ok s hsp, ?_, State.toNat_sp_sub_one hsp,
    s.setSp_frame _ _⟩, fun hsp => ⟨_, exec_ret_underflow s hsp, s.halt_haltedBy _ _ _⟩⟩
  obtain ⟨hlen, hle⟩ := hs
  have htop : s.sp.toNat - 1 < s.stack.length := by
    have := State.toNat_sp_pos hsp
    omega
  simp [State.returned, htop]

/-- Settles O9, by the two cases of a push. -/
theorem callPushesOrOverflows : Obligations.CallPushesOrOverflows := by
  intro nnn s
  refine ⟨encodes_encode (.call nnn) rfl, fun hp hs h => ⟨_, exec_call_ok nnn s h, ?_, List.length_set .., ?_,
    State.toNat_sp_add_one hp h, toNat_zext16 nnn, s.setStack_frame _ _ _⟩,
    fun h => ⟨_, exec_call_overflow nnn s h.ge, s.halt_haltedBy _ _ _⟩⟩
  · exact List.getElem?_set_self (hs.1 ▸ h)
  · exact fun k hk => List.getElem?_set_ne hk.symm

/-- Settles O10: the entry below SP after a call is the return address. -/
theorem callThenReturnComesBack : Obligations.CallThenReturnComesBack := by
  intro nnn s hp hs h
  refine ⟨_, exec_call_ok nnn s h, fun u hsp hstack => ?_⟩
  change u.sp = s.sp + 1 at hsp
  have hsucc : u.sp.toNat = s.sp.toNat + 1 := hsp ▸ State.toNat_sp_add_one hp h
  have hne : u.sp ≠ 0 := fun e => by simp [e] at hsucc
  refine ⟨_, exec_ret_ok u hne, ?_, ?_⟩
  · have hlt : s.sp.toNat < s.stack.length := hs.1 ▸ h
    simp [State.returned, hstack, State.called, hsucc, hlt]
  · simp [State.returned, hsp]

/-- Settles O11: STACK_DEPTH is at least 12. -/
theorem twelveCallsAlwaysFit : Obligations.TwelveCallsAlwaysFit := by
  intro nnn s hp hs h
  have hroom : s.sp.toNat < s.params.stackDepth := h.trans_le hp.1
  exact ⟨_, exec_call_ok nnn s hroom, rfl, State.toNat_sp_add_one hp hroom, State.called_stackOk nnn hp hs hroom⟩

end Sys2Proof.Machine
end

section
/-! PROOFS. The invariant (spec/10_state.md R37, R39, R40, R51): reset meets it, and every step keeps it. -/

namespace Sys2Proof.Machine

/-! ### Reset -/

/-- STACK_DEPTH at reset is 12 plus a slack that 16 bits have room for (00_scope.md R9; log 3). -/
theorem State.reset_params_ok : State.reset.params.Ok := by
  have hslack := Config.stackSlack.isLt
  refine ⟨?_, ?_, rfl⟩
  · exact Nat.le_add_left 12 _
  · change Config.stackSlack.val + 12 ≤ 65535
    omega

theorem State.resetWith_inv {p : Params} (h : p.Ok) : Inv (State.resetWith p) where
  params := h
  memory := rfl
  stack := ⟨List.length_replicate .., Nat.zero_le _⟩
  pc := ⟨show (0x200 : Word).toNat ≤ 0x10FE by decide, fun a ha => by rw [List.eq_of_mem_replicate ha]; decide⟩
  halt := iff_of_false nofun fun h => h rfl

/-- Settles O59, by the fields of the reset state. -/
theorem resetMeetsTheInvariant : Obligations.ResetMeetsTheInvariant :=
  ⟨State.resetWith_inv State.reset_params_ok, fun _ => State.resetWith_inv⟩

/-- Settles O57, by reading the fields of the reset state. -/
theorem resetClearsTheMachine : Obligations.ResetClearsTheMachine := by
  intro p
  have hreg (r : RegIdx) : (State.resetWith p).reg r = 0 := by simp [State.resetWith, State.reg]
  exact ⟨hreg, rfl, rfl, rfl, rfl, fun _ => rfl, rfl, Display.pixel_blank, rfl, rfl, rfl, rfl, State.reset_params_ok⟩

/-! ### The operations -/

/-- A new PC within bounds. -/
theorem Inv.setPc {s : State} (hs : Inv s) {v : Word} (hv : v.toNat ≤ 0x10FE) : Inv (s.setPc v) :=
  ⟨hs.params, hs.memory, hs.stack, ⟨hv, hs.pc.2⟩, hs.halt⟩

/-- A fatal error sets the execution state and the cause together (60_exceptions.md R213). -/
theorem Inv.haltWith {s : State} (hs : Inv s) {e : HaltCause} (he : e ≠ .none) (a : Word) (d : Nat) :
    Inv (s.halt e a d) :=
  ⟨hs.params, hs.memory, hs.stack, hs.pc, iff_of_true rfl he⟩

/-- A range-checked access, whose continuation runs only on a range that exists. -/
theorem Inv.withRange {s k : State} {a n : Nat} (hs : Inv s) (hk : n = 0 ∨ a + n ≤ Config.memSize → Inv k) :
    Inv (s.withRange a n k) := by
  obtain ⟨ht, hrange⟩ | ⟨ht, -, -⟩ := s.withRange_cases k a n
  · rw [ht]
    exact hk hrange
  · rw [ht]
    exact hs.haltWith (by decide) _ _

theorem Inv.writeBytes {s : State} (hs : Inv s) {a : Nat} {bs : List Byte} (h : a + bs.length ≤ Config.memSize) :
    Inv (s.writeBytes a bs) :=
  ⟨hs.params, s.memoryOk_writeBytes hs.memory a bs h, hs.stack, hs.pc, hs.halt⟩

/-- Two more fit: `v` is a PC after the fetch, or after a skip of the instruction at it (10_state.md R37). -/
theorem toNat_add_two {v : Word} (h : v.toNat ≤ 0x1000) : (v + 2).toNat = v.toNat + 2 :=
  BitVec.toNat_add_of_lt (show v.toNat + 2 < 2 ^ 16 by omega)

theorem Inv.skipIf {s : State} (hs : Inv s) (hpc : s.pc.toNat ≤ 0x1000) (c : Bool) : Inv (s.skipIf c) := by
  rw [s.skipIf_eq]
  refine hs.setPc ?_
  split
  · rw [toNat_add_two hpc]
    omega
  · omega

theorem Inv.afterKeyTest {s : State} (hs : Inv s) (k : Byte) : Inv (s.afterKeyTest k) := by
  rw [s.afterKeyTest_eq]
  exact ⟨hs.params, hs.memory, hs.stack, hs.pc, hs.halt⟩

theorem Inv.called {s : State} (hs : Inv s) (hpc : s.pc.toNat ≤ 0x1000) (nnn : BitVec 12)
    (h : s.sp.toNat < s.params.stackDepth) : Inv (s.called nnn) where
  params := hs.params
  memory := hs.memory
  stack := State.called_stackOk nnn hs.params hs.stack h
  pc := by
    refine ⟨?_, fun a ha => ?_⟩
    · change (zext16 nnn).toNat ≤ _
      rw [toNat_zext16]
      omega
    · obtain ha | rfl := List.mem_or_eq_of_mem_set ha
      · exact hs.pc.2 a ha
      · exact hpc
  halt := hs.halt

/-- A popped address is an entry of the stack, or the 0 that stands for none. -/
theorem Inv.returned {s : State} (hs : Inv s) (h : s.sp ≠ 0) : Inv s.returned where
  params := hs.params
  memory := hs.memory
  stack := State.returned_stackOk hs.stack h
  pc := by
    refine ⟨?_, hs.pc.2⟩
    change (s.stack.getD (s.sp.toNat - 1) 0).toNat ≤ _
    rw [List.getD_eq_getElem?_getD]
    cases htop : s.stack[s.sp.toNat - 1]? with
    | none => simp
    | some v => exact (hs.pc.2 v (List.mem_of_getElem? htop)).trans (by decide)
  halt := hs.halt

/-! ### Every instruction -/

theorem execRet_inv {s : State} (hs : Inv s) : ∃ t, exec .ret s = .next t ∧ Inv t := by
  by_cases h : s.sp = 0
  · exact ⟨_, exec_ret_underflow s h, hs.haltWith (by decide) _ _⟩
  · exact ⟨_, exec_ret_ok s h, hs.returned h⟩

theorem execCall_inv {s : State} (hs : Inv s) (hpc : s.pc.toNat ≤ 0x1000) (nnn : BitVec 12) :
    ∃ t, exec (.call nnn) s = .next t ∧ Inv t := by
  by_cases h : s.sp.toNat < s.params.stackDepth
  · exact ⟨_, exec_call_ok nnn s h, hs.called hpc nnn h⟩
  · exact ⟨_, exec_call_overflow nnn s (Nat.le_of_not_lt h), hs.haltWith (by decide) _ _⟩

/-- An instruction keeps the invariant, run from Running at a PC that the fetch has advanced. -/
theorem exec_inv (i : Instr) {s : State} (hs : Inv s) (hpc : s.pc.toNat ≤ 0x1000) (hx : s.execState = .running) :
    ∃ t, exec i s = .next t ∧ Inv t := by
  cases i with
  | ret => exact execRet_inv hs
  | call nnn => exact execCall_inv hs hpc nnn
  | jp nnn => exact ⟨_, rfl, hs.setPc (by rw [toNat_zext16]; omega)⟩
  | jpV0 nnn =>
    refine ⟨_, rfl, hs.setPc ?_⟩
    rw [toNat_zext16_add_byteToWord]
    omega
  | seImm | sneImm | seReg | sneReg => exact ⟨_, rfl, hs.skipIf hpc _⟩
  | skp x | sknp x =>
    refine ⟨_, rfl, (hs.afterKeyTest (s.reg x)).skipIf ?_ _⟩
    rw [s.afterKeyTest_eq]
    exact hpc
  | ldBcd x => exact ⟨_, rfl, hs.withRange fun h => hs.writeBytes (by simpa [bcdDigits] using h)⟩
  | storeRegs x =>
    exact ⟨_, rfl, hs.withRange fun h => hs.writeBytes (by simpa [s.length_regsThrough, regCount] using h)⟩
  | drw | loadRegs => exact ⟨_, rfl, hs.withRange fun _ => ⟨hs.params, hs.memory, hs.stack, hs.pc, hs.halt⟩⟩
  | ldVxKey =>
    have hcause : s.haltCause = .none := by simpa [HaltOk, hx] using hs.halt
    exact ⟨_, rfl, hs.params, hs.memory, hs.stack, hs.pc, by simp [HaltOk, hcause]⟩
  | cls | ldImm | addImm | ldReg | orReg | andReg | xorReg | addReg | subReg | shr | subnReg | shl | ldI | rnd
    | ldVxDt | ldDtVx | ldStVx | addIVx | ldFont =>
    exact ⟨_, rfl, hs.params, hs.memory, hs.stack, hs.pc, hs.halt⟩

/-! ### The commands -/

theorem Inv.taken {s : State} (hs : Inv s) : Inv s.taken := ⟨hs.params, hs.memory, hs.stack, hs.pc, hs.halt⟩

theorem Inv.fresh {s : State} (hs : Inv s) : Inv s.fresh :=
  have hr := State.resetWith_inv hs.params
  ⟨hr.params, hr.memory, hr.stack, hr.pc, hr.halt⟩

theorem Inv.init {s : State} (hs : Inv s) (rom : List Byte) : Inv (s.init rom) := by
  have hf := hs.fresh
  obtain ⟨hlen, ht⟩ | ⟨-, ht⟩ := s.init_cases rom
  · rw [ht]
    have hrange : Config.progBase + rom.length ≤ Config.memSize := by
      simp only [Config.progBase, Config.romMax, Config.memSize] at *
      omega
    exact ⟨hf.params, Memory.wf_writeBytes (m := []) rfl _ _ hrange, hf.stack, hf.pc, hf.halt⟩
  · rw [ht]
    exact ⟨hf.params, hf.memory, hf.stack, hf.pc, hf.halt⟩

/-- The STEP of a wait goes on or returns to Running, with no halt to account for. -/
theorem Inv.awaitKey {s : State} (hs : Inv s) (hx : s.execState = .awaitingKey) : Inv s.awaitKey := by
  have hcause : s.haltCause = .none := by simpa [HaltOk, hx] using hs.halt
  obtain ⟨-, -, ht⟩ | ⟨-, ht⟩ := s.awaitKey_cases
  · rw [ht]
    exact ⟨hs.params, hs.memory, hs.stack, hs.pc, by simp [HaltOk, State.captured, hcause]⟩
  · rw [ht]
    exact ⟨hs.params, hs.memory, hs.stack, hs.pc, hs.halt⟩

/-- PAUSE_TOGGLE writes the two execution states alone, and neither enters nor leaves Halted (60_exceptions.md R227). -/
theorem State.pauseToggle_eq (s : State) : ∃ e r, s.pauseToggle = { s with execState := e, resumeState := r } ∧
    (e = .halted ↔ s.execState = .halted) := by
  unfold State.pauseToggle
  cases hx : s.execState with
  | running | awaitingKey => exact ⟨_, _, rfl, by simp⟩
  | paused => exact ⟨_, s.resumeState, rfl, by cases s.resumeState <;> simp [ResumeState.toExec]⟩
  | halted => exact ⟨s.execState, s.resumeState, rfl, by simp [hx]⟩

theorem Inv.pauseToggle {s : State} (hs : Inv s) : Inv s.pauseToggle := by
  obtain ⟨e, r, ht, he⟩ := s.pauseToggle_eq
  rw [ht]
  exact ⟨hs.params, hs.memory, hs.stack, hs.pc, he.trans hs.halt⟩

/-- The fetch advance from a PC whose two bytes exist (30_encoding.md R95). -/
theorem Inv.advance {s : State} (hs : Inv s) (hf : FetchOk s) : s.advance.pc.toNat ≤ 0x1000 ∧ Inv s.advance := by
  change s.pc.toNat + 2 ≤ 4096 at hf
  have hpc : (s.pc + 2).toNat ≤ 0x1000 := by
    rw [toNat_add_two (by omega)]
    exact hf
  exact ⟨hpc, hs.setPc (hpc.trans (by decide))⟩

/-- Settles O60, by the cases of a step: an instruction runs only from Running at a PC its fetch has bounded. -/
theorem stepKeepsTheInvariant : Obligations.StepKeepsTheInvariant := by
  intro s t hs h
  have hk := hs.taken
  cases stepCase h with
  | init rom => exact hk.init rom
  | fetchOut => exact hk.haltWith (by decide) _ _
  | exec i t hr hf hd hx =>
    obtain ⟨hpc, hadv⟩ := hk.advance hf
    obtain ⟨t', ht', hinv⟩ := exec_inv i hadv hpc hr.2.2
    cases ht'.symm.trans hx
    exact hinv
  | invalid hr hf =>
    obtain ⟨-, hadv⟩ := hk.advance hf
    exact ⟨hadv.params, hadv.memory, hadv.stack, hadv.pc, hadv.halt⟩
  | await hc he hx => exact hk.awaitKey hx
  | pauseToggle => exact hk.pauseToggle
  | idle | quit => exact hk
  | tick | keys => exact ⟨hk.params, hk.memory, hk.stack, hk.pc, hk.halt⟩

end Sys2Proof.Machine
end

section
/-! PROOFS. The canonical form of memory (log 1) is canonical: equal reads, equal lists (spec/20_memory.md R60). -/

namespace Sys2Proof.Machine

/-- A list whose first address is c reads otherwise than one that starts above c, the empty one included. -/
theorem Memory.read_ne_of_starts_above {font : List Byte} {lo c : Nat} {b : Byte} {m m' : Memory}
    (hm : Memory.wfFrom font lo ((c, b) :: m) = true) (hm' : Memory.wfFrom font (c + 1) m' = true)
    (heq : ∀ a, Memory.read font ((c, b) :: m) a = Memory.read font m' a) : False := by
  obtain ⟨-, -, hb, -⟩ := Memory.wfFrom_cons.1 hm
  have hc := heq c
  rw [Memory.read_below hm' (Nat.lt_succ_self c)] at hc
  simp only [Memory.read, if_true] at hc
  exact hb hc

/-- What the rest of a canonical list reads follows from what the whole reads. -/
theorem Memory.read_tail_eq {font : List Byte} {c : Nat} {b b' : Byte} {m m' : Memory}
    (hm : Memory.wfFrom font (c + 1) m = true) (hm' : Memory.wfFrom font (c + 1) m' = true)
    (heq : ∀ a, Memory.read font ((c, b) :: m) a = Memory.read font ((c, b') :: m') a) (a : Nat) :
    Memory.read font m a = Memory.read font m' a := by
  by_cases ha : a < c + 1
  · rw [Memory.read_below hm ha, Memory.read_below hm' ha]
  · have hne : c ≠ a := by omega
    simpa [Memory.read, hne] using heq a

theorem Memory.eq_of_read_eq {font : List Byte} {lo : Nat} {m m' : Memory} (hm : Memory.wfFrom font lo m = true)
    (hm' : Memory.wfFrom font lo m' = true) (heq : ∀ a, Memory.read font m a = Memory.read font m' a) : m = m' := by
  induction m generalizing lo m' with
  | nil =>
    cases m' with
    | nil => rfl
    | cons e m' => exact (Memory.read_ne_of_starts_above hm' rfl fun a => (heq a).symm).elim
  | cons e m ih =>
    obtain ⟨c, b⟩ := e
    cases m' with
    | nil => exact (Memory.read_ne_of_starts_above hm rfl heq).elim
    | cons e' m' =>
      obtain ⟨c', b'⟩ := e'
      obtain ⟨-, hc⟩ := Memory.wfFrom_cons.1 hm
      obtain ⟨-, hc'⟩ := Memory.wfFrom_cons.1 hm'
      rcases Nat.lt_trichotomy c c' with h | rfl | h
      · exact (Memory.read_ne_of_starts_above hm (Memory.wfFrom_cons.2 ⟨h, hc'⟩) heq).elim
      · obtain ⟨-, -, htail⟩ := hc
        obtain ⟨-, -, htail'⟩ := hc'
        have hb : b = b' := by simpa [Memory.read] using heq c
        rw [hb, ih htail htail' (Memory.read_tail_eq htail htail' heq)]
      · exact (Memory.read_ne_of_starts_above hm' (Memory.wfFrom_cons.2 ⟨h, hc⟩) fun a => (heq a).symm).elim

/-- Settles O58, by induction on the two lists. -/
theorem equalMemoriesAreEqualData : Obligations.EqualMemoriesAreEqualData :=
  fun _ _ _ => Memory.eq_of_read_eq

end Sys2Proof.Machine
end

section
/-! PROOFS. 5XY0 and 9XY0 (spec/41_skip_imm.md R132, spec/43_index_jump_rand.md R160): the skips on two registers. -/

namespace Sys2Proof.Machine

/-- Settles O13, by the PC and the frame of a skip on V[X] = V[Y] and on V[X] ≠ V[Y]. -/
theorem registerSkips : Obligations.RegisterSkips := by
  intro x y s
  refine ⟨⟨encodes_encode (.seReg x y) rfl, s.skipIf (s.reg x == s.reg y), rfl, ?_, s.skipIf_frame _⟩,
    ⟨encodes_encode (.sneReg x y) rfl, s.skipIf (s.reg x != s.reg y), rfl, ?_, s.skipIf_frame _⟩⟩
  · exact s.skipIf_pc_of_iff beq_iff_eq
  · exact s.skipIf_pc_of_iff bne_iff_ne

end Sys2Proof.Machine
end

section
/-! PROOFS. 8XY5 to 8XYE (spec/42_alu.md R145 to R148): the flag is written first, the result reads the registers as they
then are. -/

namespace Sys2Proof.Machine

/-! ### Differences -/

theorem toNat_byte_sub (a b : Byte) : (a - b).toNat = (a.toNat + 256 - b.toNat) % 256 := by
  have := a.isLt
  have := b.isLt
  rw [BitVec.toNat_sub]
  omega

/-- No borrow is 1 exactly when the subtrahend is at most the minuend (42_alu.md R145, R147). -/
theorem noBorrowFlag_eq (a b : Byte) : noBorrowFlag a b = if b.toNat ≤ a.toNat then 1 else 0 :=
  flagByte_decide (b.toNat ≤ a.toNat)

/-- The flag `f` and then V[a] − V[b] of the registers as they then are, to V[X]: 8XY5 and 8XY7. -/
def State.subtracted (s : State) (x a b : RegIdx) (f : Byte) : State :=
  (s.setReg vF f).setReg x ((s.setReg vF f).reg a - (s.setReg vF f).reg b)

theorem State.subtracted_spec (s : State) (x a b : RegIdx) (f : Byte) :
    ∃ v : RegIdx → Byte, (∀ r, v r = if r = vF then f else s.reg r) ∧
      ((s.subtracted x a b f).reg x).toNat = ((v a).toNat + 256 - (v b).toNat) % 256 ∧
      (x ≠ vF → (s.subtracted x a b f).reg vF = f) ∧
      (∀ r, r ≠ x → r ≠ vF → (s.subtracted x a b f).reg r = s.reg r) ∧ SameBut [.regs] s (s.subtracted x a b f) := by
  refine ⟨(s.setReg vF f).reg, fun r => s.reg_setReg vF r f, ?_, fun hx => s.reg_setReg_setReg_first _ _ hx,
    fun r hx hf => s.reg_setReg_setReg_ne _ _ hx hf, s.setReg_setReg_frame _ _ _ _⟩
  rw [State.subtracted, State.reg_setReg_self, toNat_byte_sub]

/-- Settles O17: 8XY5 and 8XY7 are one subtraction with the operands exchanged. -/
theorem subtractSetsNoBorrow : Obligations.SubtractSetsNoBorrow := by
  intro x y s
  exact ⟨⟨encodes_encode (.subReg x y) rfl, s.subtracted x x y _, rfl, _, (s.subtracted_spec x x y _).imp
      fun v hv => ⟨noBorrowFlag_eq (s.reg x) (s.reg y), hv⟩⟩,
    ⟨encodes_encode (.subnReg x y) rfl, s.subtracted x y x _, rfl, _, (s.subtracted_spec x y x _).imp
      fun v hv => ⟨noBorrowFlag_eq (s.reg y) (s.reg x), hv⟩⟩⟩

/-! ### Shifts -/

theorem toNat_byte_shr_one (a : Byte) : (a >>> 1).toNat = a.toNat / 2 := by
  simp [Nat.shiftRight_eq_div_pow]

theorem toNat_byte_shl_one (a : Byte) : (a <<< 1).toNat = 2 * a.toNat % 256 := by
  simp [Nat.shiftLeft_eq, Nat.mul_comm]

theorem toNat_shiftRightFlag (a : Byte) : (shiftRightFlag a).toNat = a.toNat % 2 := by
  simp [shiftRightFlag, Nat.and_one_is_mod]

theorem toNat_shiftLeftFlag (a : Byte) : (shiftLeftFlag a).toNat = a.toNat / 128 := by
  simp [shiftLeftFlag, Nat.shiftRight_eq_div_pow]

/-- A right shift of the flag it has just written leaves nothing (log 12). -/
theorem shiftRightFlag_shr_one (a : Byte) : shiftRightFlag a >>> 1 = 0 := by
  apply BitVec.eq_of_toNat_eq
  rw [toNat_byte_shr_one, toNat_shiftRightFlag]
  change _ = 0
  omega

/-- A left shift of the flag it has just written leaves bit 7 of the operand as bit 1 (log 12). -/
theorem shiftLeftFlag_shl_one (a : Byte) : shiftLeftFlag a <<< 1 = if 0x80 ≤ a.toNat then 2 else 0 := by
  have ha := a.isLt
  apply BitVec.eq_of_toNat_eq
  rw [toNat_byte_shl_one, toNat_shiftLeftFlag]
  split
  · change _ = 2
    omega
  · change _ = 0
    omega

/-- The flag `f` and then the shift `op` of V[X] as it then is, to V[X]: 8XY6 and 8XYE. -/
def State.shifted (s : State) (x : RegIdx) (f : Byte) (op : Byte → Byte) : State :=
  (s.setReg vF f).setReg x (op ((s.setReg vF f).reg x))

theorem State.reg_shifted (s : State) {x : RegIdx} (f : Byte) (op : Byte → Byte) (hx : x ≠ vF) :
    (s.shifted x f op).reg x = op (s.reg x) ∧ (s.shifted x f op).reg vF = f := by
  refine ⟨?_, s.reg_setReg_setReg_first _ _ hx⟩
  rw [State.shifted, State.reg_setReg_self, s.reg_setReg_ne _ hx]

theorem State.reg_shifted_vF (s : State) (f : Byte) (op : Byte → Byte) : (s.shifted vF f op).reg vF = op f := by
  rw [State.shifted, State.reg_setReg_self, State.reg_setReg_self]

theorem State.shifted_changes_only (s : State) (x : RegIdx) (f : Byte) (op : Byte → Byte) :
    (∀ r, r ≠ x → r ≠ vF → (s.shifted x f op).reg r = s.reg r) ∧ SameBut [.regs] s (s.shifted x f op) :=
  ⟨fun _ hx hf => s.reg_setReg_setReg_ne _ _ hx hf, s.setReg_setReg_frame _ _ _ _⟩

/-- Settles O18, by the value and the flag when X is not F, and by the shifted flag when it is. -/
theorem shiftsByOneBit : Obligations.ShiftsByOneBit := by
  intro x y s
  refine ⟨⟨encodes_encode (.shr x y) rfl, s.shifted x (shiftRightFlag (s.reg x)) (· >>> 1), fun _ => rfl, fun hx => ?_,
      ?_, s.shifted_changes_only x _ _⟩,
    ⟨encodes_encode (.shl x y) rfl, s.shifted x (shiftLeftFlag (s.reg x)) (· <<< 1), fun _ => rfl, fun hx => ?_, ?_,
      s.shifted_changes_only x _ _⟩⟩
  · obtain ⟨hval, hflag⟩ := s.reg_shifted (shiftRightFlag (s.reg x)) (· >>> 1) hx
    rw [hval, hflag]
    exact ⟨toNat_byte_shr_one _, toNat_shiftRightFlag _⟩
  · rintro rfl
    exact (s.reg_shifted_vF _ _).trans (shiftRightFlag_shr_one _)
  · obtain ⟨hval, hflag⟩ := s.reg_shifted (shiftLeftFlag (s.reg x)) (· <<< 1) hx
    rw [hval, hflag]
    exact ⟨toNat_byte_shl_one _, toNat_shiftLeftFlag _⟩
  · rintro rfl
    exact (s.reg_shifted_vF _ _).trans (shiftLeftFlag_shl_one _)

end Sys2Proof.Machine
end

section
/-! PROOFS. FX1E and CXNN (spec/46_misc_f.md R195, spec/43_index_jump_rand.md R163). -/

namespace Sys2Proof.Machine

/-- Settles O20, by the sum of two words modulo 65536 and the frame of a new I. -/
theorem indexAddWrapsAtSixteenBits : Obligations.IndexAddWrapsAtSixteenBits := by
  intro x s
  refine ⟨encodes_encode (.addIVx x) rfl, s.setIdx (s.idx + byteToWord (s.reg x)), rfl, ?_, s.setIdx_frame _⟩
  rw [State.setIdx_idx, BitVec.toNat_add, toNat_byteToWord]

/-- Settles O22, by the bits of the byte written and the frame of a draw and a register. -/
theorem randomByteIsMasked : Obligations.RandomByteIsMasked := by
  intro x nn s
  refine ⟨encodes_encode (.rnd x nn) rfl, s.drawn.setReg x (s.randomByte &&& nn), rfl, fun k => ?_, rfl,
    fun r hr => s.drawn.reg_setReg_ne _ hr, s.drawn_setReg_frame _ _⟩
  rw [State.reg_setReg_self, BitVec.getLsbD_and]
  rfl

end Sys2Proof.Machine
end

section
/-! PROOFS. EX9E, EXA1 and FX0A (spec/45_keypad.md R180 to R182, spec/46_misc_f.md R191): the key tests and the wait. -/

namespace Sys2Proof.Machine

/-- The test of a key index reads that key and draws nothing (45_keypad.md R180, R181). -/
theorem State.keyTest_of_index (s : State) {v : Byte} {k : Fin 16} (h : v.toNat = k.val) :
    s.keyDown v = s.key k ∧ s.afterKeyTest v = s := by
  have hk : v.toNat < 16 := h ▸ k.isLt
  exact ⟨(dif_pos hk).trans (congrArg s.key (Fin.ext h)), if_pos hk⟩

/-- The test of any other value is a free draw (45_keypad.md R182; log 9). -/
theorem State.keyTest_of_no_index (s : State) {v : Byte} (h : 16 ≤ v.toNat) :
    s.keyDown v = Config.keyTest s.draws ∧ s.afterKeyTest v = s.drawn :=
  ⟨dif_neg (Nat.not_lt.2 h), if_neg (Nat.not_lt.2 h)⟩

/-- The skip on the negation of a test. -/
theorem State.skipIf_not_pc (s : State) (c : Bool) : (s.skipIf (!c)).pc = if c = true then s.pc else s.pc + 2 := by
  cases c <;> rfl

/-- Settles O25, by the level of the key tested and the frame of a skip. -/
theorem keySkips : Obligations.KeySkips := by
  intro x k s h
  obtain ⟨hdown, hsame⟩ := s.keyTest_of_index h
  have hskp : exec (.skp x) s = .next (s.skipIf (s.key k)) := by
    change Host.Outcome.next ((s.afterKeyTest (s.reg x)).skipIf (s.keyDown (s.reg x))) = _
    rw [hdown, hsame]
  have hsknp : exec (.sknp x) s = .next (s.skipIf (!s.key k)) := by
    change Host.Outcome.next ((s.afterKeyTest (s.reg x)).skipIf (!s.keyDown (s.reg x))) = _
    rw [hdown, hsame]
  exact ⟨⟨encodes_encode (.skp x) rfl, _, hskp, s.skipIf_pc _, s.skipIf_frame _⟩,
    ⟨encodes_encode (.sknp x) rfl, _, hsknp, s.skipIf_not_pc _, s.skipIf_frame _⟩⟩

/-- Settles O26, by the free Boolean drawn and the frame of a draw and a skip. -/
theorem keySkipsOffTheKeypadAreFree : Obligations.KeySkipsOffTheKeypadAreFree := by
  intro x s h
  obtain ⟨hdown, hdrawn⟩ := s.keyTest_of_no_index h
  refine ⟨⟨_, rfl, ?_, ?_, s.afterKeyTest_skipIf_frame _ _⟩, ⟨_, rfl, ?_, ?_, s.afterKeyTest_skipIf_frame _ _⟩⟩
  all_goals rw [hdown, hdrawn]
  · exact s.drawn.skipIf_pc _
  · simp [State.skipIf_eq]
  · exact s.drawn.skipIf_not_pc _
  · simp [State.skipIf_eq]

/-- Settles O28, by the frame of the wait's fields and the sample of all keys. -/
theorem keyWaitBegins : Obligations.KeyWaitBegins := fun x s =>
  ⟨encodes_encode (.ldVxKey x) rfl, _, rfl, rfl, rfl, s.anyKey_iff, s.setKeyWait_frame _ _ _⟩

end Sys2Proof.Machine
end

section
/-! PROOFS. What holds of every instruction: it answers a next state (spec/60_exceptions.md R221), halts precisely out of
range (R213), writes only listed registers (spec/10_state.md R31, R33) and reads no key level unless it is a key
instruction (R48). -/

namespace Sys2Proof.Machine

/-- Settles O38, by the frame of each instruction's meaning. -/
theorem everyInstructionAnswersNext : Obligations.EveryInstructionAnswersNext := fun i s =>
  (exec_writesOrHalts i s).imp fun _ ht => ht.1

/-- Settles O33: each of the four checks its range before it writes. -/
theorem outOfRangeAccessHalts : Obligations.OutOfRangeAccessHalts := fun x _ _ s =>
  ⟨fun hn h => ⟨_, rfl, s.withRange_out_haltedBy _ hn h⟩,
    fun h => ⟨_, rfl, s.withRange_out_haltedBy _ (by decide) h⟩,
    fun h => ⟨⟨_, rfl, s.withRange_out_haltedBy _ (Nat.succ_ne_zero x.val) h⟩,
      ⟨_, rfl, s.withRange_out_haltedBy _ (Nat.succ_ne_zero x.val) h⟩⟩⟩

/-- A piece of state that neither the instruction nor a halt writes is as it was. -/
theorem exec_same {i : Instr} {s t : State} {p : Part} (h : exec i s = .next t) (hi : p ∉ i.writes)
    (hh : p ∉ [Part.execState, .haltCause, .reports]) : Part.same s t p := by
  obtain hw | ⟨_, _, -, -, -, -, hsame⟩ := instructionsWriteOnlyWhatTheyList i s t h
  · exact hw p hi
  · exact hsame p hh

/-- A range-checked access leaves a register that its continuation leaves. -/
theorem State.withRange_reg {s k : State} {a n : Nat} {r : RegIdx} (hk : k.reg r = s.reg r) :
    (s.withRange a n k).reg r = s.reg r := by
  obtain ⟨ht, -⟩ | ⟨ht, -, -⟩ := s.withRange_cases k a n
  · rw [ht, hk]
  · rw [ht, s.halt_reg]

/-- Settles O40, by the register each result and flag is written to. -/
theorem onlyListedRegistersChange : Obligations.OnlyListedRegistersChange := by
  intro i r s t h hw
  cases i with
  | ldImm | addImm | ldReg | orReg | andReg | xorReg | rnd | ldVxDt =>
    cases h
    exact State.reg_setReg_ne _ _ (by simpa [Instr.writesReg] using hw)
  | addReg | subReg | shr | subnReg | shl =>
    cases h
    obtain ⟨hx, hf⟩ : r ≠ _ ∧ r ≠ vF := by simpa [Instr.writesReg] using hw
    exact s.reg_setReg_setReg_ne _ _ hx hf
  | drw =>
    cases h
    exact State.withRange_reg (State.reg_setReg_ne _ _ (by simpa [Instr.writesReg] using hw))
  | loadRegs x =>
    cases h
    have hr : ¬r.val ≤ x.val := by simpa [Instr.writesReg] using hw
    exact State.withRange_reg ((s.reg_loadRegsThrough x r).trans (if_neg hr))
  | cls | ret | jp | call | seImm | sneImm | seReg | sneReg | ldI | jpV0 | skp | sknp | ldVxKey | ldDtVx | ldStVx
    | addIVx | ldFont | ldBcd | storeRegs => exact exec_same (p := .regs) h (by simp [Instr.writes]) (by decide) r

/-! ### Other key levels -/

theorem State.setKeys_withRange {s k k' : State} {l : Keypad} {a n : Nat} (hk : k' = k.setKeys l) :
    (s.setKeys l).withRange a n k' = (s.withRange a n k).setKeys l := by
  rw [hk, State.withRange, State.withRange]
  cases checkRange a n <;> rfl

theorem State.setKeys_readBytes (s : State) (l : Keypad) (a n : Nat) : (s.setKeys l).readBytes a n = s.readBytes a n := by
  induction n generalizing a with
  | zero => rfl
  | succ n ih => simp [State.readBytes, ih]

theorem State.setKeys_drawSprite (s : State) (l : Keypad) (x y : RegIdx) (n : Nat) :
    (s.setKeys l).drawSprite x y n = s.drawSprite x y n := by
  simp only [State.drawSprite, State.setKeys_readBytes, State.setKeys_reg, State.setKeys_disp, State.indexAddr,
    State.setKeys_idx]

/-- Settles O44: every state that an instruction of the rest builds is built from fields other than the keys. -/
theorem keypadIsReadByKeyInstructionsOnly : Obligations.KeypadIsReadByKeyInstructionsOnly := by
  intro i l s hi
  cases i with
  | skp | sknp | ldVxKey => cases hi
  | ret =>
    by_cases h : s.sp = 0
    · rw [exec_ret_underflow s h, exec_ret_underflow (s.setKeys l) h]
      rfl
    · rw [exec_ret_ok s h, exec_ret_ok (s.setKeys l) h]
      rfl
  | call nnn =>
    by_cases h : s.sp.toNat < s.params.stackDepth
    · rw [exec_call_ok nnn s h, exec_call_ok nnn (s.setKeys l) h]
      rfl
    · rw [exec_call_overflow nnn s (Nat.le_of_not_lt h), exec_call_overflow nnn (s.setKeys l) (Nat.le_of_not_lt h)]
      rfl
  | seImm | sneImm | seReg | sneReg =>
    refine congrArg Host.Outcome.next ?_
    rw [State.skipIf_eq, State.skipIf_eq]
    rfl
  | drw x y n =>
    refine congrArg Host.Outcome.next ?_
    rw [s.setKeys_drawSprite]
    exact State.setKeys_withRange rfl
  | ldBcd | storeRegs | loadRegs => exact congrArg Host.Outcome.next (State.setKeys_withRange rfl)
  | cls | jp | ldImm | addImm | ldReg | orReg | andReg | xorReg | addReg | subReg | shr | subnReg | shl | ldI | jpV0
    | rnd | ldVxDt | ldDtVx | ldStVx | addIVx | ldFont => rfl

end Sys2Proof.Machine
end

section
/-! PROOFS. DXYN on a sprite whose bytes exist (spec/44_draw.md R170): each pixel, the collision flag, and the second draw
that undoes the first. -/

namespace Sys2Proof.Machine

/-! ### The sprite as a set of pixels -/

/-- A row's bit at a column, by the bit's number in the row's byte. -/
theorem bitAt_rowBits (x : Nat) (row : Byte) (px : Nat) :
    bitAt x (rowBits row) px = (decide (x ≤ px) && decide (px < x + 8) && row.getLsbD (7 - (px - x))) := by
  have hcol : x ≤ px → (px - x < 8 ↔ px < x + 8) := by omega
  rw [bitAt, getD_rowBits]
  by_cases hx : x ≤ px
  · simp [hx, hcol hx]
  · simp [hx]

/-- The bits of the rows read from I are the sprite's (44_draw.md R170). -/
theorem State.rowsBit_readBytes (s : State) (x y : RegIdx) (n : Nat) (px : Fin 64) (py : Fin 32) :
    rowsBit (spriteX (s.reg x)) (spriteY (s.reg y)) (s.readBytes s.indexAddr n) px.val py.val =
      s.spriteBit x y n px py := by
  have hrow : spriteY (s.reg y) ≤ py.val → (py.val - spriteY (s.reg y) < n ↔ py.val < spriteY (s.reg y) + n) := by
    omega
  rw [State.spriteBit, rowsBit]
  change _ = (decide (spriteX (s.reg x) ≤ px.val) && decide (px.val < spriteX (s.reg x) + 8) &&
    decide (spriteY (s.reg y) ≤ py.val) && decide (py.val < spriteY (s.reg y) + n) && _)
  by_cases hy : spriteY (s.reg y) ≤ py.val
  · by_cases hn : py.val - spriteY (s.reg y) < n
    · rw [s.getElem?_readBytes _ _ _ hn, Option.map_some, Option.getD_some, bitAt_rowBits]
      simp only [hy, (hrow hy).1 hn, decide_true, Bool.true_and, Bool.and_true]
      rfl
    · rw [List.getElem?_eq_none (by rw [s.length_readBytes]; omega)]
      simp [hy, mt (hrow hy).2 hn]
  · simp [hy]

/-! ### The state a draw leaves -/

/-- The state after drawing the sprite: its pixels inverted, VF written last. -/
def State.sprited (s : State) (x y : RegIdx) (n : Nat) : State :=
  State.setReg { s with disp := (s.drawSprite x y n).disp } vF (collisionFlag (s.drawSprite x y n).hit)

theorem exec_drw_ok (x y : RegIdx) (n : Nat) (s : State) (h : n = 0 ∨ s.indexAddr + n ≤ Config.memSize) :
    exec (.drw x y n) s = .next (s.sprited x y n) :=
  congrArg Host.Outcome.next (s.withRange_ok _ _ _ h)

theorem State.pixel_sprited (s : State) (x y : RegIdx) (n : Nat) (px : Fin 64) (py : Fin 32) :
    (s.sprited x y n).pixel px py = (s.pixel px py ^^ s.spriteBit x y n px py) := by
  rw [← s.rowsBit_readBytes]
  exact pixel_drawRows _ _ _ _ px py

theorem collisionFlag_eq_one_iff (hit : Bool) : collisionFlag hit = 1 ↔ hit = true := by
  cases hit <;> decide

theorem collisionFlag_one_or_zero (hit : Bool) : collisionFlag hit = 1 ∨ collisionFlag hit = 0 := by
  cases hit
  · exact .inr rfl
  · exact .inl rfl

theorem State.reg_sprited_vF (s : State) (x y : RegIdx) (n : Nat) :
    (s.sprited x y n).reg vF = collisionFlag (s.drawSprite x y n).hit :=
  State.reg_setReg_self _ _ _

/-- VF is 1 exactly when a pixel under the sprite was on. -/
theorem State.sprited_vF_iff (s : State) (x y : RegIdx) (n : Nat) :
    (s.sprited x y n).reg vF = 1 ↔ ∃ px py, s.spriteBit x y n px py = true ∧ s.pixel px py = true := by
  rw [s.reg_sprited_vF, collisionFlag_eq_one_iff, State.drawSprite, hit_drawRows]
  simp only [s.rowsBit_readBytes, Bool.false_eq_true, false_or]
  rfl

/-- Settles O23, by the pixels and the hit of the rows drawn. -/
theorem drawInvertsTheSpritePixels : Obligations.DrawInvertsTheSpritePixels := by
  intro x y n s hn
  refine ⟨encodes_encode (.drw x y n) (decide_eq_true hn), fun h => ⟨_, exec_drw_ok x y n s h,
    s.pixel_sprited x y n, ?_, s.sprited_vF_iff x y n, fun r hr => State.reg_setReg_ne _ _ hr,
    s.setDisp_setReg_frame _ _ _⟩⟩
  rw [s.reg_sprited_vF]
  exact collisionFlag_one_or_zero _

/-! ### Drawing twice -/

/-- A sprite whose origin is not in VF is the same after it was drawn. -/
theorem State.spriteBit_sprited (s : State) {x y : RegIdx} (n : Nat) (hx : x ≠ vF) (hy : y ≠ vF) :
    (s.sprited x y n).spriteBit x y n = s.spriteBit x y n := by
  have hreg (r : RegIdx) (hr : r ≠ vF) : (s.sprited x y n).reg r = s.reg r := State.reg_setReg_ne _ _ hr
  funext px py
  rw [State.spriteBit, hreg x hx, hreg y hy]
  rfl

/-- Settles O24: the second draw inverts the same pixels again, those of the sprite then being on. -/
theorem drawTwiceRestoresTheDisplay : Obligations.DrawTwiceRestoresTheDisplay := by
  intro x y n s _ hx hy h
  have hbit := s.spriteBit_sprited n hx hy
  refine ⟨_, _, exec_drw_ok x y n s h, exec_drw_ok x y n (s.sprited x y n) h, fun px py => ?_, fun hshows hoff => ?_⟩
  · rw [State.pixel_sprited, State.pixel_sprited, hbit, Bool.xor_assoc, Bool.xor_self, Bool.xor_false]
  · constructor
    · rw [s.reg_sprited_vF]
      refine (collisionFlag_one_or_zero _).resolve_left fun hone => ?_
      rw [← s.reg_sprited_vF, s.sprited_vF_iff] at hone
      obtain ⟨px, py, hset, hon⟩ := hone
      rw [hoff px py hset] at hon
      cases hon
    · obtain ⟨px, py, hset⟩ := hshows
      refine (State.sprited_vF_iff _ x y n).2 ⟨px, py, hbit ▸ hset, ?_⟩
      rw [s.pixel_sprited, hset, hoff px py hset]
      rfl

end Sys2Proof.Machine
end

section
/-! PROOFS. The instruction cycle (spec/30_encoding.md R95, spec/20_memory.md R78, spec/60_exceptions.md R213, R216): the
instruction a STEP runs, and what a halt leaves. -/

namespace Sys2Proof.Machine

/-- The branch of the instruction cycle that a word with an instruction takes. -/
theorem State.runInstruction_of_decoded {s : State} {i : Instr} (hf : FetchOk s)
    (hd : decodeWord s.fetchedWord = .ok i) : s.runInstruction = exec i s.advance := by
  obtain ⟨hout, -⟩ | ⟨-, j, hj, hrun⟩ | ⟨-, herr, -⟩ := s.runInstruction_cases
  · exact absurd hf hout
  · cases hj.symm.trans hd
    exact hrun
  · rw [hd] at herr
    cases herr

/-- Settles O37, by the cycle's branch for a word with an instruction. -/
theorem stepRunsTheDecodedInstruction : Obligations.StepRunsTheDecodedInstruction := fun _ s hr hf hd =>
  (step_run s hr).trans (State.runInstruction_of_decoded (s := s.taken) hf hd)

/-- Settles O32: the word fetched after the store is made of the two bytes just stored. -/
theorem storedCodeIsWhatRunsNext : Obligations.StoredCodeIsWhatRunsNext := by
  intro x i s hm hr hx hpc h hd
  refine ⟨_, exec_storeRegs_ok x s h, ?_⟩
  have hidx : s.indexAddr = s.pc.toNat := congrArg BitVec.toNat hpc.symm
  have hfetch : FetchOk (s.writeBytes s.indexAddr (s.regsThrough x)) := by
    change s.pc.toNat + 2 ≤ 4096
    omega
  have hread (r : RegIdx) (hle : r ≤ x) :
      (s.writeBytes s.indexAddr (s.regsThrough x)).readByte (s.pc.toNat + r.val) = s.reg r :=
    hidx ▸ s.readByte_writeBytes_regsThrough hm s.indexAddr h hle
  have hword : (s.writeBytes s.indexAddr (s.regsThrough x)).fetchedWord = Word.ofBytes (s.reg 0) (s.reg 1) :=
    congrArg₂ Word.ofBytes (hread 0 (Nat.zero_le _)) (hread 1 hx)
  exact stepRunsTheDecodedInstruction i _ hr hfetch (hword ▸ hd)

/-- Settles O34, by the cycle's branch for a fetch out of range. -/
theorem fetchOutOfRangeHalts : Obligations.FetchOutOfRangeHalts := by
  intro s hr h
  have hf : ¬FetchOk s.taken := Nat.not_le.2 h
  obtain ⟨-, hrun⟩ | ⟨hok, -⟩ | ⟨hok, -⟩ := s.taken.runInstruction_cases
  · exact ⟨_, (step_run s hr).trans hrun, s.taken.halt_haltedBy _ _ _⟩
  · exact absurd hok hf
  · exact absurd hok hf

/-! ### The execution state an instruction leaves -/

/-- FX0A alone writes the execution state without an error (60_exceptions.md R222). -/
theorem eq_ldVxKey_of_writes_execState {i : Instr} (h : .execState ∈ i.writes) : ∃ x, i = .ldVxKey x := by
  cases i with
  | ldVxKey x => exact ⟨x, rfl⟩
  | _ => simp [Instr.writes] at h

/-- An instruction leaves the execution state, waits for a key, or halts (60_exceptions.md R222, R224). -/
theorem exec_execState {i : Instr} {s t : State} (h : exec i s = .next t) :
    t.execState = s.execState ∨
    (t.execState = .awaitingKey ∧ ∃ x, i = .ldVxKey x ∧ t.kwX = x) ∨
    ∃ e d, e ≠ .none ∧ HaltedBy e (s.pc - 2) d s t := by
  obtain hw | hhalt := instructionsWriteOnlyWhatTheyList i s t h
  · by_cases hi : .execState ∈ i.writes
    · obtain ⟨x, rfl⟩ := eq_ldVxKey_of_writes_execState hi
      cases h
      exact .inr (.inl ⟨rfl, x, rfl, rfl⟩)
    · exact .inl (hw .execState hi)
  · exact .inr (.inr hhalt)

theorem State.halt_frame (s : State) (e : HaltCause) (a : Word) (d : Nat) :
    SameBut [.execState, .haltCause, .reports] s (s.halt e a d) := by
  obtain ⟨-, -, -, hsame⟩ := s.halt_haltedBy e a d
  exact hsame

/-- Settles O36: of the cycle's branches the fetch out of range halts, and so does an instruction that raises. -/
theorem fatalErrorsArePrecise : Obligations.FatalErrorsArePrecise := by
  intro s t hr h hhalted
  rw [step_run s hr] at h
  obtain ⟨hf, hrun⟩ | ⟨hf, i, -, hrun⟩ | ⟨-, -, hrun⟩ := s.taken.runInstruction_cases
  · cases hrun.symm.trans h
    exact ⟨nofun, ⟨_, rfl⟩, (if_neg hf).symm, (s.taken.halt_frame _ _ _).mono (by simp)⟩
  · obtain hsame | ⟨hwait, -⟩ | ⟨e, d, he, -, hcause, hreports, hsame⟩ := exec_execState (hrun.symm.trans h)
    · cases (hsame.symm.trans hhalted).symm.trans hr.2.2
    · cases hwait.symm.trans hhalted
    · have haddr : s.taken.advance.pc - 2 = s.pc := BitVec.add_sub_cancel s.pc 2
      refine ⟨hcause ▸ he, ⟨d, ?_⟩, ?_, ?_⟩
      · rw [hreports, hcause, haddr]
        rfl
      · exact (hsame .pc (by decide)).trans (if_pos hf).symm
      · exact ((s.taken.setPc_frame _).mono (by simp)).trans (hsame.mono (by simp))
  · cases hrun.symm.trans h
    cases hhalted.symm.trans hr.2.2

end Sys2Proof.Machine
end

section
/-! PROOFS. Whole-machine frames (spec/10_state.md R40, R47, spec/20_memory.md R63): which steps change the display, a
byte of memory, SP or the stack. -/

namespace Sys2Proof.Machine

/-! ### Frames of the commands -/

/-- The pieces of state that a command other than INIT, or a halt or report of the cycle, may change by itself. -/
def hostParts : List Part :=
  [.regs, .pc, .dt, .st, .execState, .resumeState, .keyWait, .haltCause, .keys, .reports, .commands, .draws]

theorem State.taken_frame (s : State) : SameBut [.commands] s s.taken := by
  intro p hp
  cases p <;> simp_all [Part.same]

theorem State.setKeys_frame (s : State) (l : Keypad) : SameBut [.keys] s (s.setKeys l) := by
  intro p hp
  cases p <;> simp_all [Part.same]

theorem State.tick_frame (s : State) : SameBut [.dt, .st] s s.tick := by
  intro p hp
  cases p <;> simp_all [Part.same]

theorem State.captured_frame (s : State) : SameBut [.regs, .execState, .draws] s s.captured := by
  intro p hp
  cases p <;> simp_all [Part.same, State.captured, State.readByte, State.pixel]

theorem State.setKwPrevAny_frame (s : State) (b : Bool) : SameBut [.keyWait] s { s with kwPrevAny := b } := by
  intro p hp
  cases p <;> simp_all [Part.same, State.reg, State.readByte, State.pixel]

theorem State.awaitKey_frame (s : State) : SameBut [.regs, .execState, .draws, .keyWait] s s.awaitKey := by
  obtain ⟨-, -, ht⟩ | ⟨-, ht⟩ := s.awaitKey_cases
  · rw [ht]
    exact s.captured_frame.mono (by simp)
  · rw [ht]
    exact (s.setKwPrevAny_frame _).mono (by simp)

/-- A step that changes some other piece of state is an INIT, or runs an instruction that lists the piece. -/
theorem step_changes {s t : State} {p : Part} (h : step s = .next t) (hp : p ∉ hostParts) (hne : ¬Part.same s t p) :
    (∃ rom, s.pending = .init rom) ∨
    (RunsNext s ∧ FetchOk s ∧
      ∃ i, decodeWord s.fetchedWord = .ok i ∧ p ∈ i.writes ∧ exec i s.taken.advance = .next t) := by
  have hframe {l : List Part} {u : State} (hl : l ⊆ hostParts) (hu : SameBut l s.taken u) : Part.same s u p :=
    Part.same_trans (s.taken_frame.mono (by decide) p hp) (hu.mono hl p hp)
  cases stepCase h with
  | init rom hc => exact .inl ⟨rom, hc⟩
  | exec i t hr hf hd hx =>
    refine .inr ⟨hr, hf, i, hd, ?_, hx⟩
    by_contra hi
    have hadv : Part.same s s.taken.advance p := hframe (by decide) (s.taken.setPc_frame _)
    have hhalt : [Part.execState, .haltCause, .reports] ⊆ hostParts := by decide
    exact hne (Part.same_trans hadv (exec_same hx hi fun hh => hp (hhalt hh)))
  | fetchOut => exact absurd (hframe (by decide) (s.taken.halt_frame _ _ _)) hne
  | invalid => exact absurd (hframe (by decide) (s.taken.advance_reportInvalid_frame _ _)) hne
  | await => exact absurd (hframe (by decide) s.taken.awaitKey_frame) hne
  | idle | quit => exact absurd (hframe (List.nil_subset _) (SameBut.refl [] _)) hne
  | tick => exact absurd (hframe (by decide) s.taken.tick_frame) hne
  | pauseToggle => exact absurd (hframe (by decide) s.taken.pauseToggle_frame) hne
  | keys l => exact absurd (hframe (by decide) (s.taken.setKeys_frame l)) hne

/-! ### The writers of a piece of state (10_state.md R40, R47, 20_memory.md R63) -/

theorem writes_disp {i : Instr} (h : .disp ∈ i.writes) : i = .cls ∨ ∃ p q n, i = .drw p q n := by
  cases i with
  | cls => exact .inl rfl
  | drw p q n => exact .inr ⟨p, q, n, rfl⟩
  | _ => simp [Instr.writes] at h

theorem writes_mem {i : Instr} (h : .mem ∈ i.writes) : (∃ x, i = .ldBcd x) ∨ ∃ x, i = .storeRegs x := by
  cases i with
  | ldBcd x => exact .inl ⟨x, rfl⟩
  | storeRegs x => exact .inr ⟨x, rfl⟩
  | _ => simp [Instr.writes] at h

theorem writes_sp {i : Instr} (h : .sp ∈ i.writes) : i = .ret ∨ ∃ nnn, i = .call nnn := by
  cases i with
  | ret => exact .inl rfl
  | call nnn => exact .inr ⟨nnn, rfl⟩
  | _ => simp [Instr.writes] at h

/-- What writes the stack writes SP. -/
theorem writes_sp_of_stack {i : Instr} (h : .stack ∈ i.writes) : .sp ∈ i.writes := by
  cases i with
  | call => simp [Instr.writes]
  | _ => simp [Instr.writes] at h

/-! ### The obligations -/

/-- Settles O41, by the instructions that list the display. -/
theorem onlyClearAndDrawChangeTheDisplay : Obligations.OnlyClearAndDrawChangeTheDisplay := by
  intro s t x y h hne
  obtain hinit | ⟨hr, hf, i, hd, hi, -⟩ := step_changes h (p := .disp) (by decide) fun hsame => hne (hsame x y)
  · exact .inl hinit
  · refine .inr ⟨hr, hf, ?_⟩
    obtain rfl | ⟨p, q, n, rfl⟩ := writes_disp hi
    · exact .inl hd
    · exact .inr ⟨p, q, n, hd⟩

/-- A store that changed a byte changed one of its own. -/
theorem State.withRange_writeBytes_changes {s : State} {a n c : Nat} {bs : List Byte} (hlen : bs.length = n)
    (hne : (s.withRange a n (s.writeBytes a bs)).readByte c ≠ s.readByte c) : a ≤ c ∧ c < a + n := by
  obtain ⟨ht, -⟩ | ⟨ht, -, -⟩ := s.withRange_cases (s.writeBytes a bs) a n
  · rw [ht] at hne
    by_contra hout
    exact hne (s.readByte_writeBytes_out a c bs (by omega))
  · rw [ht] at hne
    exact absurd rfl hne

/-- Settles O42, by the instructions that list memory and the bytes each of them stores. -/
theorem onlyStoresChangeMemory : Obligations.OnlyStoresChangeMemory := by
  intro s t a h hne
  obtain hinit | ⟨hr, hf, i, hd, hi, hx⟩ := step_changes h (p := .mem) (by decide) fun hsame => hne (hsame a)
  · exact .inl hinit
  · refine .inr ⟨hr, hf, ?_⟩
    obtain ⟨x, rfl⟩ | ⟨x, rfl⟩ := writes_mem hi
    · cases hx
      obtain ⟨hlo, hhi⟩ := State.withRange_writeBytes_changes (s := s.taken.advance) (n := 3) (bs := bcdDigits _) rfl hne
      exact ⟨hlo, .inl ⟨x, hd, hhi⟩⟩
    · cases hx
      obtain ⟨hlo, hhi⟩ :=
        State.withRange_writeBytes_changes (s := s.taken.advance) (State.length_regsThrough _ x) hne
      exact ⟨hlo, .inr ⟨x, hd, hhi⟩⟩

/-- Settles O43, by the instructions that list SP, those that list the stack being among them. -/
theorem onlyCallAndReturnMoveTheStack : Obligations.OnlyCallAndReturnMoveTheStack := by
  intro s t h hne
  have hpart : ∃ p, p ∉ hostParts ∧ ¬Part.same s t p ∧ ∀ i : Instr, p ∈ i.writes → .sp ∈ i.writes := by
    by_cases hsp : t.sp = s.sp
    · exact ⟨.stack, by decide, fun hstack => hne ⟨hsp, hstack⟩, fun _ => writes_sp_of_stack⟩
    · exact ⟨.sp, by decide, hsp, fun _ => id⟩
  obtain ⟨p, hp, hdiff, hsp⟩ := hpart
  obtain hinit | ⟨hr, hf, i, hd, hi, -⟩ := step_changes h hp hdiff
  · exact .inl hinit
  · refine .inr ⟨hr, hf, ?_⟩
    obtain rfl | ⟨nnn, rfl⟩ := writes_sp (hsp i hi)
    · exact .inl hd
    · exact .inr ⟨nnn, hd⟩

end Sys2Proof.Machine
end

section
/-! PROOFS. The commands of the host (spec/60_exceptions.md R225 to R230, R240, spec/70_reset_and_hazards.md R250 to
R254): what each does as a step. -/

namespace Sys2Proof.Machine

/-! ### A step by its command -/

theorem step_init {s : State} {rom : List Byte} (hc : s.pending = .init rom) : step s = .next (s.taken.init rom) := by
  rw [step_eq, hc]
  rfl

theorem step_quit {s : State} (hc : s.pending = .quit) : step s = .next s.taken := by
  rw [step_eq, hc]
  rfl

theorem step_keys {s : State} {levels : Keypad} (hc : s.pending = .keys levels) :
    step s = .next (s.taken.setKeys levels) := by
  rw [step_eq, hc]
  rfl

theorem step_tick {s : State} (he : s.Exists) (hc : s.pending = .tick) : step s = .next s.taken.tick := by
  rw [step_eq, hc]
  exact State.onMachine_ok _ he.taken

theorem step_pauseToggle {s : State} (he : s.Exists) (hc : s.pending = .pauseToggle) :
    step s = .next s.taken.pauseToggle := by
  rw [step_eq, hc]
  exact State.onMachine_ok _ he.taken

theorem step_stepCommand {s : State} (he : s.Exists) (hc : s.pending = .step) : step s = s.taken.stepCommand := by
  rw [step_eq, hc]
  exact State.onMachine_ok _ he.taken

theorem step_awaitKey {s : State} (he : s.Exists) (hc : s.pending = .step) (hx : s.execState = .awaitingKey) :
    step s = .next s.taken.awaitKey := by
  rw [step_stepCommand he hc, State.stepCommand, s.taken_execState, hx]

/-- Settles O48, by the STEP of Paused and of Halted. -/
theorem stepInPausedOrHaltedDoesNothing : Obligations.StepInPausedOrHaltedDoesNothing := by
  intro s he hc hx
  rw [step_stepCommand he hc, State.stepCommand, s.taken_execState]
  obtain hx | hx := hx
  · rw [hx]
  · rw [hx]

/-! ### PAUSE_TOGGLE by the execution state (60_exceptions.md R227) -/

theorem State.pauseToggle_of_running {s : State} (hx : s.execState = .running) :
    s.pauseToggle = { s with resumeState := .running, execState := .paused } := by
  rw [State.pauseToggle, hx]

theorem State.pauseToggle_of_awaitingKey {s : State} (hx : s.execState = .awaitingKey) :
    s.pauseToggle = { s with resumeState := .awaitingKey, execState := .paused } := by
  rw [State.pauseToggle, hx]

theorem State.pauseToggle_of_paused {s : State} (hx : s.execState = .paused) :
    s.pauseToggle = { s with execState := s.resumeState.toExec } := by
  rw [State.pauseToggle, hx]

theorem State.pauseToggle_of_halted {s : State} (hx : s.execState = .halted) : s.pauseToggle = s := by
  rw [State.pauseToggle, hx]

/-- Settles O49, by the execution state in which PAUSE_TOGGLE comes. -/
theorem pauseTogglesAndResumes : Obligations.PauseTogglesAndResumes := by
  intro s he hc
  refine ⟨_, step_pauseToggle he hc, fun hx => ?_, fun hx => ?_, fun hx => ?_, fun hx => ?_, s.taken.pauseToggle_frame⟩
  · rw [State.pauseToggle_of_running (s := s.taken) hx]
    exact ⟨rfl, rfl⟩
  · rw [State.pauseToggle_of_awaitingKey (s := s.taken) hx]
    exact ⟨rfl, rfl⟩
  · rw [State.pauseToggle_of_paused (s := s.taken) hx]
    exact ⟨rfl, rfl⟩
  · rw [State.pauseToggle_of_halted (s := s.taken) hx]
    exact ⟨hx, rfl⟩

/-! ### TICK -/

/-- Settles O50, by the value of a timer after a TICK. -/
theorem tickCountsDown : Obligations.TickCountsDown := fun s he hc =>
  ⟨_, step_tick he hc, toNat_tickDown s.dt, toNat_tickDown s.st, s.taken.tick.soundOn_iff, s.taken.tick_frame⟩

theorem run_succ_of_next (M : Host.Core) {n : Nat} {s u : M.State} (h : M.step s = .next u) :
    M.run (n + 1) s = M.run n u := by
  rw [Host.Core.run, h]

/-- Settles O51, by induction on the number of TICKs. -/
theorem timersReachZeroInAsManyTicks : Obligations.TimersReachZeroInAsManyTicks := by
  intro n rest s he hc
  induction n generalizing s with
  | zero => exact ⟨s, rfl, rfl, rfl, hc, SameBut.refl _ s⟩
  | succ n ih =>
    rw [List.replicate_succ, List.cons_append] at hc
    have hpending : s.pending = .tick := congrArg (fun cs => cs.headD .step) hc
    have hleft : s.taken.tick.commands = List.replicate n .tick ++ rest := congrArg List.tail hc
    obtain ⟨t, hrun, hdt, hst, hcommands, hsame⟩ := ih s.taken.tick he hleft
    rw [State.tick_dt, toNat_tickDown] at hdt
    rw [State.tick_st, toNat_tickDown] at hst
    refine ⟨t, (run_succ_of_next Sys2Proof.core (step_tick he hpending)).trans hrun, ?_, ?_, hcommands, ?_⟩
    · rw [hdt, s.taken_dt]
      omega
    · rw [hst, s.taken_st]
      omega
    · exact (s.taken_frame.mono (by decide)).trans ((s.taken.tick_frame.mono (by decide)).trans hsame)

/-! ### The STEP of a wait (60_exceptions.md R226) -/

/-- Settles O52, by the state a capture leaves. -/
theorem waitCapturesAKeyThatIsDown : Obligations.WaitCapturesAKeyThatIsDown := by
  intro s he hc hx hprev hdown
  have hany : s.taken.anyKey = true := s.taken.anyKey_iff.2 hdown
  have hawait : s.taken.awaitKey = s.taken.captured := by
    obtain ⟨-, -, ht⟩ | ⟨hno | hno, -⟩ := s.taken.awaitKey_cases
    · exact ht
    · cases hno.symm.trans hprev
    · cases hno.symm.trans hany
  refine ⟨s.taken.captured, pickKey (Config.keyChoice s.draws) s.taken.keysDown,
    (step_awaitKey he hc hx).trans (congrArg Host.Outcome.next hawait), s.taken.pickKey_down _ hany, ?_, rfl,
    fun r hr => State.reg_setReg_ne _ _ hr, s.taken.captured_frame⟩
  have hreg : s.taken.captured.reg s.kwX = BitVec.ofNat 8 (pickKey (Config.keyChoice s.draws) s.taken.keysDown).val :=
    State.reg_setReg_self _ _ _
  rw [hreg, BitVec.toNat_ofNat]
  exact Nat.mod_eq_of_lt ((Fin.isLt _).trans (by decide))

/-- Settles O53, by the state a wait that goes on leaves. -/
theorem waitGoesOnWithoutATransition : Obligations.WaitGoesOnWithoutATransition := by
  intro s he hc hx hno
  have hawait : s.taken.awaitKey = { s.taken with kwPrevAny := s.taken.anyKey } := by
    obtain ⟨hprev, hany, -⟩ | ⟨-, ht⟩ := s.taken.awaitKey_cases
    · obtain hyes | hup := hno
      · cases hyes.symm.trans hprev
      · obtain ⟨k, hk⟩ := s.taken.anyKey_iff.1 hany
        cases (hup k).symm.trans hk
    · exact ht
  exact ⟨{ s.taken with kwPrevAny := s.taken.anyKey },
    (step_awaitKey he hc hx).trans (congrArg Host.Outcome.next hawait), rfl, s.taken.anyKey_iff,
    s.taken.setKwPrevAny_frame _⟩

/-! ### INIT -/

theorem State.init_loaded (s : State) {rom : List Byte} (h : rom.length ≤ 3584) : s.init rom = s.loaded rom := by
  obtain ⟨-, ht⟩ | ⟨hlong, -⟩ := s.init_cases rom
  · exact ht
  · exact absurd h (Nat.not_le.2 hlong)

theorem State.init_discarded (s : State) {rom : List Byte} (h : 3584 < rom.length) :
    s.init rom = s.discarded rom.length := by
  obtain ⟨hshort, -⟩ | ⟨-, ht⟩ := s.init_cases rom
  · exact absurd h (Nat.not_lt.2 hshort)
  · exact ht

/-- Outside the ROM a new machine reads as FONT and zeros (10_state.md R55). -/
theorem State.readByte_loaded_background (s : State) {rom : List Byte} {a : Nat}
    (h : a < 0x200 ∨ 0x200 + rom.length ≤ a) :
    (s.loaded rom).readByte a = if a < 0x050 then s.params.font.getD a 0 else 0 :=
  s.readByte_loaded_out rom a h

/-- Settles O54, by the fields of a fresh machine and the bytes of its memory. -/
theorem initMakesANewMachine : Obligations.InitMakesANewMachine := by
  intro rom s hc hlen
  refine ⟨s.taken.loaded rom, (step_init hc).trans (congrArg Host.Outcome.next (s.taken.init_loaded hlen)), rfl,
    fun r => (Vector.getElem_replicate _), rfl, rfl, rfl, rfl, rfl, rfl, Display.pixel_blank, rfl, rfl, rfl, rfl, rfl,
    fun j hj => ?_, fun a ha => ?_, fun a hlo hout => ?_, rfl, rfl, rfl, rfl, rfl⟩
  · rw [List.getElem?_eq_getElem hj]
    exact congrArg some (s.taken.readByte_loaded_in rom hlen j hj).symm
  · exact (s.taken.readByte_loaded_background (.inl (by omega))).trans (if_pos ha)
  · exact (s.taken.readByte_loaded_background hout).trans (if_neg (Nat.not_lt.2 hlo))

/-- Settles O55, by the state a failed INIT leaves and the INIT after it. -/
theorem oversizedRomIsALoadError : Obligations.OversizedRomIsALoadError := by
  intro rom s hc hlen
  refine ⟨s.taken.discarded rom.length, (step_init hc).trans (congrArg Host.Outcome.next (s.taken.init_discarded hlen)), rfl, rfl, rfl,
    fun rom' hlen' hc' => ⟨(s.taken.discarded rom.length).taken.loaded rom', ?_, rfl⟩⟩
  rw [step_init hc', State.init_loaded _ hlen']

/-- Settles O56: these commands go through the check that a machine exists, or do not touch what it reads. -/
theorem onlyInitMakesAMachine : Obligations.OnlyInitMakesAMachine := by
  intro s he
  have hfault (r : Result) : s.taken.onMachine r = .fault .noMachine := State.onMachine_none r he
  refine ⟨?_, step_quit, fun levels hc => ⟨_, step_keys hc, he, s.taken.setKeys_frame levels⟩⟩
  rintro (hc | hc | hc)
  all_goals
    rw [step_eq, hc]
    exact hfault _

end Sys2Proof.Machine
end

section
/-! PROOFS. The transitions of exec_state (spec/60_exceptions.md R214, R222, R224). -/

namespace Sys2Proof.Machine

/-- INIT leaves the execution state of a fresh machine, discarded or not. -/
theorem State.execState_init (s : State) (rom : List Byte) : (s.init rom).execState = .running := by
  obtain ⟨-, ht⟩ | ⟨-, ht⟩ := s.init_cases rom
  · rw [ht]
    rfl
  · rw [ht]
    rfl

/-- Settles O46, by the cases of a step: only an instruction enters the wait, and only FX0A. -/
theorem onlyKeyWaitSuspends : Obligations.OnlyKeyWaitSuspends := by
  intro s t h hrun hwait
  cases stepCase h with
  | exec i t hr hf hd hx =>
    refine ⟨hr, hf, ?_⟩
    obtain hsame | ⟨-, x, rfl, hkw⟩ | ⟨_, _, -, hhalted, -⟩ := exec_execState hx
    · cases (hsame.symm.trans hwait).symm.trans hrun
    · exact ⟨x, hd, hkw⟩
    · cases hhalted.symm.trans hwait
  | init rom => cases (s.taken.execState_init rom).symm.trans hwait
  | fetchOut => cases hwait
  | await hc he hx => cases hx.symm.trans hrun
  | pauseToggle =>
    rw [State.pauseToggle_of_running (s := s.taken) hrun] at hwait
    cases hwait
  | invalid | idle | tick | quit | keys => cases hwait.symm.trans hrun

/-- Settles O47, by the commands other than INIT. -/
theorem haltedIsTerminal : Obligations.HaltedIsTerminal := by
  intro s he hx hc
  cases hp : s.pending with
  | init rom => exact absurd hp (hc rom)
  | step =>
    exact ⟨_, stepInPausedOrHaltedDoesNothing s he hp (.inr hx), hx, SameBut.refl _ _⟩
  | tick => exact ⟨_, step_tick he hp, hx, s.taken.tick_frame.mono (by decide)⟩
  | pauseToggle =>
    have hsame : s.taken.pauseToggle = s.taken := State.pauseToggle_of_halted hx
    exact ⟨s.taken, (step_pauseToggle he hp).trans (congrArg Host.Outcome.next hsame), hx, SameBut.refl _ _⟩
  | quit => exact ⟨_, step_quit hp, hx, SameBut.refl _ _⟩
  | keys levels => exact ⟨_, step_keys hp, hx, (s.taken.setKeys_frame levels).mono (by decide)⟩

/-! ### The table -/

/-- The phase of a machine that exists is its execution state. -/
theorem State.phase_eq {s : State} {e : ExecState} (he : s.Exists) (hx : s.execState = e) : s.phase = some e := by
  rw [State.phase, show s.initResult = .ok from he, hx]

/-- INIT makes a machine that is Running, or none. -/
theorem State.phase_init (s : State) (rom : List Byte) :
    (s.init rom).phase = if rom.length ≤ 3584 then some .running else none := by
  by_cases h : rom.length ≤ 3584
  · rw [if_pos h, s.init_loaded h]
    rfl
  · rw [if_neg h, s.init_discarded (Nat.lt_of_not_le h)]
    rfl

/-- No instruction makes or discards a machine. -/
theorem exec_exists {i : Instr} {s t : State} (h : exec i s = .next t) (he : s.Exists) : t.Exists := by
  have hi : .initResult ∉ i.writes := by cases i <;> simp [Instr.writes]
  exact (exec_same (p := .initResult) h hi (by decide)).trans he

/-- Settles O45, by the cases of a step. -/
theorem execStateMovesByTheTable : Obligations.ExecStateMovesByTheTable := by
  intro s t h
  cases stepCase h with
  | init rom hc =>
    rw [hc]
    exact s.taken.phase_init rom
  | exec i t hr hf hd hx =>
    obtain ⟨hc, he, hrun⟩ := hr
    have ht := exec_exists hx he
    rw [hc, State.phase_eq he hrun]
    obtain hsame | ⟨hwait, -⟩ | ⟨_, _, -, hhalted, -⟩ := exec_execState hx
    · exact .inl (State.phase_eq ht (hsame.trans hrun))
    · exact .inr (.inl (State.phase_eq ht hwait))
    · exact .inr (.inr (State.phase_eq ht hhalted))
  | fetchOut hr =>
    obtain ⟨hc, he, hrun⟩ := hr
    rw [hc, State.phase_eq he hrun]
    exact .inr (.inr (State.phase_eq he rfl))
  | invalid hr =>
    obtain ⟨hc, he, hrun⟩ := hr
    rw [hc, State.phase_eq he hrun]
    exact .inl (State.phase_eq he hrun)
  | await hc he hx =>
    rw [hc, State.phase_eq he hx]
    obtain ⟨-, -, ht⟩ | ⟨-, ht⟩ := s.taken.awaitKey_cases
    · rw [ht]
      exact .inl (State.phase_eq he rfl)
    · rw [ht]
      exact .inr (State.phase_eq he hx)
  | idle hc he hx =>
    obtain hx | hx := hx
    · rw [hc, State.phase_eq he hx]
      exact State.phase_eq he hx
    · rw [hc, State.phase_eq he hx]
      exact State.phase_eq he hx
  | tick hc he =>
    rw [hc, State.phase_eq he rfl]
    exact State.phase_eq he rfl
  | pauseToggle hc he =>
    cases hx : s.execState with
    | running =>
      rw [hc, State.phase_eq he hx, State.pauseToggle_of_running (s := s.taken) hx]
      exact State.phase_eq he rfl
    | awaitingKey =>
      rw [hc, State.phase_eq he hx, State.pauseToggle_of_awaitingKey (s := s.taken) hx]
      exact State.phase_eq he rfl
    | paused =>
      rw [hc, State.phase_eq he hx, State.pauseToggle_of_paused (s := s.taken) hx]
      exact State.phase_eq he rfl
    | halted =>
      rw [hc, State.phase_eq he hx, State.pauseToggle_of_halted (s := s.taken) hx]
      exact State.phase_eq he hx
  | quit hc | keys levels hc =>
    rw [hc]
    rfl

end Sys2Proof.Machine
end
